-- ==== Sys2Proof/Word.lean ====
section
/-! DEFINITION. The word types of ODLD: a byte of the wire or of the segment ROM, and the host command word. -/

namespace Sys2Proof

/-- One byte: a wire byte, a segment byte, a ROM entry, `resp_data` (R7: "Every byte value is 8 bits"). -/
abbrev Byte := BitVec 8

/-- The host command word `CW[63:0]` (R59). -/
abbrev CmdWord := BitVec 64

end Sys2Proof
end

