-- ==== Sys2Proof/Syntax.lean ====
section
/-! DEFINITION. The operations of ODLD as syntax: one constructor of `Instr` for every row of the opcode table
(the eight host commands of R60 and the four wire byte formats of R55 to R58), and the words that encode them. -/

namespace Sys2Proof

/-- The two lines; the host word's `LINE` field is 0 for `CLK` and 1 for `DIO` (R61). -/
inductive Line where
  | clk
  | dio
  deriving DecidableEq, Repr

/-- The six segment fields of a `SETSEG` word, `SEG0` to `SEG5` (R62), as presented: a field at or beyond `LEN`
carries nothing and is ignored. -/
structure SegFields where
  seg0 : Byte
  seg1 : Byte
  seg2 : Byte
  seg3 : Byte
  seg4 : Byte
  seg5 : Byte
  deriving DecidableEq, Repr

/-- One constructor per row of the opcode table. -/
inductive Instr where
  /-- `DRVLOW`: `driveLow(pin)` (R71). -/
  | drvlow (line : Line)
  /-- `RELEASE`: `release(pin)` (R72). -/
  | release (line : Line)
  /-- `SETTLE`: `settle()` (R73). -/
  | settle
  /-- `START`: `start()` (R81). -/
  | start
  /-- `STOP`: `stop()` (R82). -/
  | stop
  /-- `WRBYTE`: `writeByte(value)` (R83). -/
  | wrbyte (value : Byte)
  /-- `SETSEG`: `setSegments(segments, startPosition)` (R91), with the word's fields as they stand (R62). -/
  | setseg (pos : BitVec 3) (len : BitVec 3) (segs : SegFields)
  /-- `LOOKUP`: the digit-to-segment lookup (R96). -/
  | lookup (digit : BitVec 4)
  /-- `WIRE_CMD1_MODE_SELECT`: command byte 1 (R55). -/
  | wireModeSelect
  /-- `WIRE_CMD2_ADDRESS_SELECT`: command byte 2 with its field `ppp` (R56). -/
  | wireAddressSelect (p : BitVec 3)
  /-- `WIRE_CMD3_DISPLAY_CONTROL`: command byte 3 with its field `bbbb` (R57). -/
  | wireDisplayControl (b : BitVec 4)
  /-- `WIRE_SEGMENT_BYTE`: bit 7 `p` (the auxiliary indicator) and bits 6:0 `gfedcba` (R58). -/
  | wireSegment (aux : Bool) (gfedcba : BitVec 7)
  deriving DecidableEq, Repr

/-- Where a wire byte stands in its transaction: a segment byte is "distinguished from command bytes by position in the
transaction, not by value" (the opcode table's row of R58; R54, R94). -/
inductive WirePos where
  /-- The first byte of a transaction. -/
  | command
  /-- A later byte: the payload of transaction 2. -/
  | payload
  deriving DecidableEq, Repr

/-- A word of one of the two encoding spaces of R50: a host command word, or a byte of the wire with its position. -/
inductive CodeWord where
  | host (cw : CmdWord)
  | wire (pos : WirePos) (byte : Byte)
  deriving DecidableEq, Repr

end Sys2Proof
end

