-- ==== Sys2Proof/Decode.lean ====
section
/-! DEFINITION. The decoder of the two encoding spaces (R50), total on every word and rejecting by name, and the encoder
written from the same tables (R55 to R58, R60 to R62). -/

namespace Sys2Proof

/-- Why a word selects no row. -/
inductive DecodeError where
  /-- `OP` is 0 or 9 to F (R60, R63). -/
  | reservedOperation
  /-- `OP` is assigned and a reserved bit is not zero (R59, R63). -/
  | reservedBits
  /-- A byte in the command position that is none of the three command formats (R64). -/
  | notACommandByte
  deriving DecidableEq, Repr

/-- One row of R60. -/
structure HostRow where
  mnemonic : String
  pattern : CmdWord
  mask : CmdWord
  deriving DecidableEq, Repr

/-- "A word `w` selects a row when `(w & mask) == match`" (R60). -/
def HostRow.selects (r : HostRow) (w : CmdWord) : Bool := (w &&& r.mask) == r.pattern

def rowDrvlow : HostRow := ⟨"DRVLOW", 0x1000000000000000#64, 0xFFFFFFFFFFFFFFFE#64⟩
def rowRelease : HostRow := ⟨"RELEASE", 0x2000000000000000#64, 0xFFFFFFFFFFFFFFFE#64⟩
def rowSettle : HostRow := ⟨"SETTLE", 0x3000000000000000#64, 0xFFFFFFFFFFFFFFFF#64⟩
def rowStart : HostRow := ⟨"START", 0x4000000000000000#64, 0xFFFFFFFFFFFFFFFF#64⟩
def rowStop : HostRow := ⟨"STOP", 0x5000000000000000#64, 0xFFFFFFFFFFFFFFFF#64⟩
def rowWrbyte : HostRow := ⟨"WRBYTE", 0x6000000000000000#64, 0xFFFFFFFFFFFFFF00#64⟩
def rowSetseg : HostRow := ⟨"SETSEG", 0x7000000000000000#64, 0xF88F000000000000#64⟩
def rowLookup : HostRow := ⟨"LOOKUP", 0x8000000000000000#64, 0xFFFFFFFFFFFFFFF0#64⟩

/-- The table of R60. -/
def hostTable : List HostRow :=
  [rowDrvlow, rowRelease, rowSettle, rowStart, rowStop, rowWrbyte, rowSetseg, rowLookup]

/-- `OP` = `CW[63:60]` (R59). -/
def opField (w : CmdWord) : BitVec 4 := w.extractLsb' 60 4

/-- The `LINE` field `CW[0]` (R61). -/
def lineField (w : CmdWord) : Line := if w.getLsbD 0 then .dio else .clk

/-- The bit that names a line (R61). -/
def lineBit : Line → BitVec 1
  | .clk => 0#1
  | .dio => 1#1

/-- `SEGk` = `CW[8k+7 : 8k]` (R62). -/
def segFields (w : CmdWord) : SegFields :=
  ⟨w.extractLsb' 0 8, w.extractLsb' 8 8, w.extractLsb' 16 8, w.extractLsb' 24 8, w.extractLsb' 32 8,
    w.extractLsb' 40 8⟩

/-- The name of a host word's rejection (R63). -/
def hostRejection (w : CmdWord) : DecodeError :=
  if 1#4 ≤ opField w && opField w ≤ 8#4 then .reservedBits else .reservedOperation

/-- The host command decoder (R60 to R63). -/
def decodeHost (w : CmdWord) : Except DecodeError Instr :=
  if rowDrvlow.selects w then .ok (.drvlow (lineField w))
  else if rowRelease.selects w then .ok (.release (lineField w))
  else if rowSettle.selects w then .ok .settle
  else if rowStart.selects w then .ok .start
  else if rowStop.selects w then .ok .stop
  else if rowWrbyte.selects w then .ok (.wrbyte (w.extractLsb' 0 8))
  else if rowSetseg.selects w then
    .ok (.setseg (w.extractLsb' 56 3) (w.extractLsb' 52 3) (segFields w))
  else if rowLookup.selects w then .ok (.lookup (w.extractLsb' 0 4))
  else .error (hostRejection w)

/-- The wire byte decoder (R55 to R58). In the command position the three formats `01000000`, `11000ppp` and
`1000bbbb` are told apart by value; in the payload position every byte is a segment byte. -/
def decodeWire (pos : WirePos) (v : Byte) : Except DecodeError Instr :=
  match pos with
  | .command =>
    if v == 0x40#8 then .ok .wireModeSelect
    else if (v &&& 0xF8#8) == 0xC0#8 then .ok (.wireAddressSelect (v.extractLsb' 0 3))
    else if (v &&& 0xF0#8) == 0x80#8 then .ok (.wireDisplayControl (v.extractLsb' 0 4))
    else .error .notACommandByte
  | .payload => .ok (.wireSegment (v.getLsbD 7) (v.extractLsb' 0 7))

/-- The decoder. -/
def decode : CodeWord → Except DecodeError Instr
  | .host w => decodeHost w
  | .wire pos v => decodeWire pos v

/-- The byte `pgfedcba` (R58). -/
def segmentByte (aux : Bool) (gfedcba : BitVec 7) : Byte := BitVec.ofBool aux ++ gfedcba

/-- A field's value at its place in the command word, `lo` its lowest bit. -/
def placeField {n : Nat} (v : BitVec n) (lo : Nat) : CmdWord := v.setWidth 64 <<< lo

/-- The `SETSEG` word, field by field (R62). -/
def setsegWord (pos len : BitVec 3) (f : SegFields) : CmdWord :=
  0x7000000000000000#64 ||| placeField pos 56 ||| placeField len 52
    ||| placeField f.seg5 40 ||| placeField f.seg4 32 ||| placeField f.seg3 24
    ||| placeField f.seg2 16 ||| placeField f.seg1 8 ||| placeField f.seg0 0

/-- The encoder: the word of an instruction, reserved bits zero (R55 to R62). -/
def encode : Instr → CodeWord
  | .drvlow l => .host (0x1000000000000000#64 ||| placeField (lineBit l) 0)
  | .release l => .host (0x2000000000000000#64 ||| placeField (lineBit l) 0)
  | .settle => .host 0x3000000000000000#64
  | .start => .host 0x4000000000000000#64
  | .stop => .host 0x5000000000000000#64
  | .wrbyte v => .host (0x6000000000000000#64 ||| placeField v 0)
  | .setseg pos len f => .host (setsegWord pos len f)
  | .lookup d => .host (0x8000000000000000#64 ||| placeField d 0)
  | .wireModeSelect => .wire .command 0x40#8
  | .wireAddressSelect p => .wire .command (0b11000#5 ++ p)
  | .wireDisplayControl b => .wire .command (0x8#4 ++ b)
  | .wireSegment aux pat => .wire .payload (segmentByte aux pat)

/-- The code word of a table row's bits. A row of 8 bits is a wire byte: in the command position when it has one of the
three command formats, else in the payload position. A wider row is a host word. Log entry 4. -/
def codeWordOf (nbits w : Nat) : CodeWord :=
  if nbits ≤ 8 then
    let v := BitVec.ofNat 8 w
    match decodeWire .command v with
    | .ok _ => .wire .command v
    | .error _ => .wire .payload v
  else .host (BitVec.ofNat 64 w)

/-- The instruction the decoder reads from a table row's bits. -/
def decodeTableWord (nbits w : Nat) : Option Instr :=
  match decode (codeWordOf nbits w) with
  | .ok i => some i
  | .error _ => none

end Sys2Proof
end

