-- ==== Sys2Proof/Config.lean ====
section
/-! DEFINITION. What R6 fixes for every ODLD, the parameters no rule depends on, and the one free value. -/

namespace Sys2Proof.Config

/-- `NUM_DIGITS`, the physical digit count (R6). -/
def numDigits : Nat := 6

/-- `NUM_LINES`: `CLK` and `DIO` (R6). -/
def numLines : Nat := 2

/-- The reference value of the parameter `BRIGHTNESS` (R6, R15). -/
def referenceBrightness : BitVec 4 := 0x0F#4

/-- `SETTLE_DELAY` in microseconds, a lower bound on every settle. R6 and R73 make it a parameter on whose value no
rule depends ("1 millisecond in the reference behavior"), so it has no body here. Log entry 13. -/
opaque settleDelay : Nat

/-- `F_CLK` in hertz, an open parameter (R6, D2). Log entry 13. -/
opaque clockFrequency : Nat

/-- The hardware timer counts `ceil(SETTLE_DELAY * F_CLK)` cycles of `clk` for one settle (R127). -/
def settleCycles : Nat := (settleDelay * clockFrequency + 999999) / 1000000

/-- FREE VALUE (U2, R114): whether the pin had already taken the requested mode when its `n`-th failed mode-set call
reported the failure. It has no body: nothing can be proved of it but that it is one of the two. Log entry 2. -/
opaque failedModeSetTakes : Nat → Bool

end Sys2Proof.Config
end

