-- ==== Sys2Proof/Machine/State.lean ====
section
/-! DEFINITION. The state of ODLD as plain data: every register of R10, the ports of R26, the environment's side of
those ports, and what R38 says a working display holds. -/

namespace Sys2Proof.Machine

/-- The mode of a line's pin: released, or driven low; "There is no third mode" (R11). -/
inductive Mode where
  | input
  | output
  deriving DecidableEq, Repr

/-- The two events of the trace: `M(l, m)` and `S` (R8, R9). -/
inductive Event where
  | modeSet (line : Line) (mode : Mode)
  | settle
  deriving DecidableEq, Repr

/-- `LIFE` (R20). -/
inductive LifeState where
  | uninit
  | ready
  | busy
  | faulted
  | terminated
  deriving DecidableEq, Repr

/-- `FCAUSE` (R21). -/
inductive FaultCause where
  | none
  | configError
  | gpioError
  deriving DecidableEq, Repr

/-- `SEQ`, the update-cycle state machine (R22). -/
inductive SeqState where
  | idle
  | cmd1Framed
  | cmd2PayloadFramed
  | cmd3Framed
  deriving DecidableEq, Repr

/-- `TXN`, the transaction state machine (R23). -/
inductive TxnState where
  | idle
  | started
  | byteSent
  | stopped
  deriving DecidableEq, Repr

/-- The response codes of R110. -/
inductive RespCode where
  | ok
  | configError
  | gpioError
  | callerMisuse
  | illegalCmd
  deriving DecidableEq, Repr

/-- The sub-causes of caller misuse (R115). -/
inductive MisuseCause where
  | posRange
  | lenRange
  | sumRange
  deriving DecidableEq, Repr

/-- The five tracking registers `SHIFT`, `BITCNT`, `BYTEIDX`, `SEQ`, `TXN` (R17, R22, R23), which gate nothing. -/
structure Tracking where
  shift : BitVec 8
  bitcnt : BitVec 4
  byteidx : BitVec 3
  seq : SeqState
  txn : TxnState
  deriving DecidableEq, Repr

/-- The `DISP` space: (position, segment byte) pairs, positions rising. A position that is not listed holds a byte the
spec does not give (R37, R38, U4). -/
abbrev Memory := List Host.Cell

/-- What is known of a working display by the four facts of R38; outside the block, read by nothing (R117). Log
entry 5. -/
structure Display where
  /-- The display is known to be in step with the block: since reset, or since the last complete update, only complete
  updates have moved a line, so what it has received is well bracketed (R84) and made of the bytes of a `setSegments`.
  Where this is not so, U3, U4 and U6 refuse every claim about `DISP`. While an update runs, it says that the update began
  in step. -/
  inStep : Bool
  /-- Auto-increment addressing is known to be selected (fact 1). -/
  autoIncrement : Bool
  /-- The known digit positions (fact 2). -/
  digits : Memory
  /-- The display-on and brightness nibble last received, when it is known (fact 3). -/
  control : Option (BitVec 4)
  deriving DecidableEq, Repr

/-- A write to a tracking register that an operation's pseudocode makes between its events (R19). -/
inductive TrackWrite where
  /-- `SHIFT <- value; BITCNT <- 0` (R83). -/
  | loadByte (value : Byte)
  /-- `SHIFT <- SHIFT >> 1; BITCNT <- BITCNT + 1` (R83). -/
  | shiftBit
  /-- `BYTEIDX <- 0` (R91). -/
  | clearByteIdx
  /-- `BYTEIDX <- BYTEIDX + 1` (R91). -/
  | nextByteIdx
  | setSeq (q : SeqState)
  | setTxn (t : TxnState)
  deriving DecidableEq, Repr

/-- A change in what is known of the display (R38, U3, U4, U6). -/
inductive DisplayWrite where
  /-- Nothing can be said of the display any more (U3, U4, U6). -/
  | forget
  /-- An update of `count` positions from `pos` begins; `linesIdle` says that both lines are released, so that its first
  `start()` is a true start condition (R152). -/
  | beginUpdate (pos count : Nat) (linesIdle : Bool)
  /-- Transaction 1 is complete (R38 fact 1). -/
  | selectAutoIncrement
  /-- Transaction 2 is complete (R38 fact 2). -/
  | writeDigits (pos : Nat) (segs : List Byte)
  /-- Transaction 3, and with it the update, is complete (R38 fact 3). -/
  | setControl (b : BitVec 4)
  deriving DecidableEq, Repr

/-- A write that is attached to an event (R19). -/
inductive Attached where
  | track (w : TrackWrite)
  | display (w : DisplayWrite)
  deriving DecidableEq, Repr

/-- One entry of `PEND`: an event still to be emitted, and the writes the same step performs after it (R19). -/
structure PendingEvent where
  event : Event
  writes : List Attached
  deriving DecidableEq, Repr

/-- One line of an operation's pseudocode: an `emit` or a write (R83, R91). -/
inductive Action where
  | emit (e : Event)
  | write (w : Attached)
  deriving DecidableEq, Repr

/-- The configuration ports and the platform, sampled by initialisation only (R26, R142): `cfg_valid`, the two pin
identifiers, `cfg_brightness`, the identifiers for which `PinValid` holds, and `gpio_avail`. -/
structure PlatformInputs where
  cfgValid : Bool
  cfgClkPin : Nat
  cfgDioPin : Nat
  cfgBrightness : BitVec 4
  validPins : List Nat
  gpioAvail : Bool
  deriving DecidableEq, Repr

/-- The levels of the input ports that a step samples (R26). `cmd` is `cmd_valid` with `cmd_word`, or a byte on the
model's byte port (log entry 4); `gpioFail` is the GPIO subsystem's answer to the mode-set call of this step, if it
makes one (the oracle `GpioFails`, R114). `config` is what the configuration ports and the platform show in this step,
where that differs from their standing levels, the state's `platform`: each initialisation samples the ports anew, so
one after a reset can find other inputs than the one before (DESIGN CHOICE, log entry 21). -/
structure PortInputs where
  rstN : Bool
  term : Bool
  cmd : Option CodeWord
  gpioFail : Bool
  config : Option PlatformInputs
  deriving DecidableEq, Repr

/-- Nothing is asked of the block, a mode-set call succeeds, and the configuration ports are at their standing levels. -/
def PortInputs.quiet : PortInputs := ⟨true, false, none, false, none⟩

/-- `resp_code` and `resp_data` (R26, R110). -/
structure Response where
  code : RespCode
  data : Byte
  deriving DecidableEq, Repr

/-- A call `setMode(gpio_pin, gpio_mode)` on the GPIO port (R26). -/
structure GpioCall where
  pin : Nat
  mode : Mode
  deriving DecidableEq, Repr

/-- The pulses on the output ports during the last step; they are not latched (R26, R122). The level outputs `ready`,
`busy`, `fault`, `fcause`, `oe_clk`, `oe_dio` are computed from the registers (Flags.lean). -/
structure PortOutputs where
  done : Bool
  resp : Option Response
  gpio : Option GpioCall
  deriving DecidableEq, Repr

/-- No pulse on any output port. -/
def PortOutputs.quiet : PortOutputs := ⟨false, none, none⟩

/-- The complete state: the registers of R10, then the ports and the environment, then the model's own counter. -/
structure State where
  /-- `MODE[CLK]` (R11). -/
  modeClk : Mode
  /-- `MODE[DIO]` (R11). -/
  modeDio : Mode
  /-- `PINID[CLK]` (R16). -/
  pinClk : Nat
  /-- `PINID[DIO]` (R16). -/
  pinDio : Nat
  /-- `BRIGHT` (R15). -/
  bright : BitVec 4
  /-- `SHIFT`, `BITCNT`, `BYTEIDX`, `SEQ`, `TXN` (R17, R22, R23). -/
  tracking : Tracking
  /-- `PEND` (R19). -/
  pend : List PendingEvent
  /-- `LIFE` (R20). -/
  life : LifeState
  /-- `FCAUSE` (R21). -/
  fcause : FaultCause
  /-- `TRACE` (R24). -/
  trace : List Event
  /-- The parameter `SEGROM[6..15]`, seven bits an entry (R6, R31, R34). No step writes it. -/
  segromHigh : Vector (BitVec 7) 10
  /-- The external display (R38). -/
  display : Display
  /-- The standing levels of the configuration ports and the platform; a script entry may give others for its step. -/
  platform : PlatformInputs
  /-- The port levels of the coming steps, the next step's first; quiet for ever after the last one. -/
  script : List PortInputs
  /-- The output pulses of the last step. -/
  out : PortOutputs
  /-- The MODEL's own: how many free values have been taken (U2). -/
  freeCount : Nat
  deriving DecidableEq, Repr

/-- The model's stops. The spec gives the machine none: its fatal errors are states (`LIFE` = `FAULTED`). -/
inductive Fault where
  /-- Raised by the step in a state with `LIFE` = `BUSY` and `PEND` empty, which the step of R19 excludes ("requires
  LIFE == BUSY and PEND == e :: rest") and no run reaches. Safe. -/
  | busyWithNothingPending
  deriving DecidableEq, Repr

/-- The model's refusals. -/
inductive Refusal where
  /-- Raised by `exec` for an instruction without a meaning yet. Safe. No arm is left in this state. -/
  | notModelled (mnemonic : String)
  deriving DecidableEq, Repr

/-- The tracking registers after reset: `SEQ` and `TXN` as R140 says; `SHIFT`, `BITCNT`, `BYTEIDX` are unspecified and
take 0 (DESIGN CHOICE, log entry 1). -/
def Tracking.reset : Tracking := ⟨0#8, 0#4, 0#3, .idle, .idle⟩

/-- Nothing is known of the display, nor whether it is in step. -/
def Display.unknown : Display := ⟨false, false, [], none⟩

/-- The display before the first update: in step, since it has received nothing (R143), and nothing is known of what it
holds. DESIGN CHOICE, log entry 5. -/
def Display.reset : Display := ⟨true, false, [], none⟩

/-- The default of the parameter `SEGROM[6..15]` (R34, G1). PRESUMED, log entry 3. -/
def defaultSegromHigh : Vector (BitVec 7) 10 :=
  #v[0x7D#7, 0x07#7, 0x7F#7, 0x6F#7, 0x77#7, 0x7C#7, 0x39#7, 0x5E#7, 0x79#7, 0x71#7]

/-- A platform that meets R143, with the pin identifiers of the spec's programs. DESIGN CHOICE, log entry 6. -/
def defaultPlatform : PlatformInputs := ⟨true, 23, 24, Config.referenceBrightness, [23, 24], true⟩

/-- The machine after hardware reset and before initialisation (R10, R140). `PINID` and `BRIGHT` are unspecified and
take 0 (DESIGN CHOICE, log entry 1). -/
def State.reset : State where
  modeClk := .input
  modeDio := .input
  pinClk := 0
  pinDio := 0
  bright := 0#4
  tracking := .reset
  pend := []
  life := .uninit
  fcause := .none
  trace := []
  segromHigh := defaultSegromHigh
  display := .reset
  platform := defaultPlatform
  script := []
  out := .quiet
  freeCount := 0

/-- The read of `MODE[l]` (R8). -/
def State.mode (s : State) : Line → Mode
  | .clk => s.modeClk
  | .dio => s.modeDio

/-- The write of `MODE[l]` (R8). -/
def State.setMode (s : State) (l : Line) (m : Mode) : State :=
  match l with
  | .clk => { s with modeClk := m }
  | .dio => { s with modeDio := m }

/-- The read of `PINID[l]` (R8). -/
def State.pinId (s : State) : Line → Nat
  | .clk => s.pinClk
  | .dio => s.pinDio

end Sys2Proof.Machine
end

