-- ==== Sys2Proof/Machine/Flags.lean ====
section
/-! DEFINITION. ODLD has no condition codes (R18). What it shows of its state: the level outputs of R26, the encodings
of its state registers, the derived line level, and the in-order predicate of `TXN`. -/

namespace Sys2Proof.Machine

/-- `ready`: `LIFE == READY` and `PEND == []` (R18, R26). -/
def State.ready (s : State) : Bool := decide (s.life = .ready) && s.pend.isEmpty

/-- `busy`: `LIFE == BUSY` (R18, R26). -/
def State.busy (s : State) : Bool := decide (s.life = .busy)

/-- `fault`: `LIFE == FAULTED` (R26). -/
def State.fault (s : State) : Bool := decide (s.life = .faulted)

/-- `INPUT` = 0, `OUTPUT` = 1, the open-drain output enable (R11, D4). -/
def Mode.code : Mode → BitVec 1
  | .input => 0#1
  | .output => 1#1

/-- `oe[l] = (MODE[l] == OUTPUT)` (R12). -/
def State.outputEnable (s : State) (l : Line) : Bool := decide (s.mode l = .output)

/-- The level of a line whose pin is in mode `m`; `pull` is `Pull(l)`: no other device pulls the line low (R14). -/
def lineLevel (m : Mode) (pull : Bool) : Bool :=
  match m with
  | .output => false
  | .input => pull

/-- The codes of `LIFE` (R20). -/
def LifeState.code : LifeState → BitVec 3
  | .uninit => 0#3
  | .ready => 1#3
  | .busy => 2#3
  | .faulted => 3#3
  | .terminated => 4#3

/-- The codes of `FCAUSE` (R21). -/
def FaultCause.code : FaultCause → BitVec 3
  | .none => 0#3
  | .configError => 1#3
  | .gpioError => 2#3

/-- The codes of `SEQ` (R22). -/
def SeqState.code : SeqState → BitVec 2
  | .idle => 0#2
  | .cmd1Framed => 1#2
  | .cmd2PayloadFramed => 2#2
  | .cmd3Framed => 3#2

/-- The codes of `TXN` (R23). -/
def TxnState.code : TxnState → BitVec 2
  | .idle => 0#2
  | .started => 1#2
  | .byteSent => 2#2
  | .stopped => 3#2

/-- The codes of `resp_code` (R110). -/
def RespCode.code : RespCode → BitVec 3
  | .ok => 0#3
  | .configError => 1#3
  | .gpioError => 2#3
  | .callerMisuse => 3#3
  | .illegalCmd => 4#3

/-- The sub-cause codes of caller misuse (R115). -/
def MisuseCause.code : MisuseCause → BitVec 2
  | .posRange => 1#2
  | .lenRange => 2#2
  | .sumRange => 3#2

/-- The response code of a fatal error is its cause (R110); there is none without a cause. -/
def FaultCause.respCode : FaultCause → RespCode
  | .none => .ok
  | .configError => .configError
  | .gpioError => .gpioError

/-- `start()` is in order when no transaction is open (R23, D11). -/
def startInOrder (t : TxnState) : Bool := decide (t = .idle) || decide (t = .stopped)

/-- `writeByte` and `stop()` are in order inside an open transaction (R23). -/
def insideTransaction (t : TxnState) : Bool := decide (t = .started) || decide (t = .byteSent)

end Sys2Proof.Machine
end

