-- ==== Sys2Proof/Machine/Operands.lean ====
section
/-! DEFINITION. The operands of the operations: the segment list of a `SETSEG` word, its argument check, the bytes the
segment API assembles, and the segment ROM. -/

namespace Sys2Proof.Machine

/-- The six fields in list order. -/
def segFieldList (f : SegFields) : List Byte := [f.seg0, f.seg1, f.seg2, f.seg3, f.seg4, f.seg5]

/-- `segments = [SEG0, ..., SEG(LEN-1)]` (R62). -/
def segmentsOperand (len : BitVec 3) (f : SegFields) : List Byte := (segFieldList f).take len.toNat

/-- The argument check of `setSegments`, in the order of R92 and R120; none is a legal call. -/
def argumentCheck (pos len : BitVec 3) : Option MisuseCause :=
  if 5 < pos.toNat then some .posRange
  else if 6 < len.toNat then some .lenRange
  else if 6 < pos.toNat + len.toNat then some .sumRange
  else none

/-- `resp_data = {sub[1:0], LEN[2:0], POS[2:0]}` (R115). -/
def misuseData (c : MisuseCause) (len pos : BitVec 3) : Byte := c.code ++ len ++ pos

/-- Command byte 1 (R55). -/
def modeSelectByte : Byte := 0x40#8

/-- Command byte 2: `0xC0 + startPosition`, an addition of bytes (R56, R98 (a)). -/
def addressSelectByte (pos : BitVec 3) : Byte := 0xC0#8 + pos.zeroExtend 8

/-- Command byte 3: `0x80 + brightness`, an addition of bytes (R57, R98 (b)). -/
def displayControlByte (b : BitVec 4) : Byte := 0x80#8 + b.zeroExtend 8

/-- The auxiliary indicator of a segment byte, ORed in by the caller (R66, R97). -/
def withAuxiliary (v : Byte) : Byte := v ||| 0x80#8

/-- `MemRead(SEGROM, d, 1)` (R32): entries 0 to 5 as R33 fixes them, entries 6 to 15 from the parameter (R34), bit 7
zero in every entry (R31). -/
def State.segrom (s : State) (d : BitVec 4) : Byte :=
  match d.toNat with
  | 0 => 0x3F#8
  | 1 => 0x06#8
  | 2 => 0x5B#8
  | 3 => 0x4F#8
  | 4 => 0x66#8
  | 5 => 0x6D#8
  | k + 6 => if h : k < 10 then s.segromHigh[k].setWidth 8 else 0x00#8

end Sys2Proof.Machine
end

