-- ==== Sys2Proof/Machine/Ops.lean ====
section
/-! DEFINITION. The shared operations: the `DISP` memory, the attached writes, the expansion of an operation, accepting
and rejecting a command, a fatal error, one event, initialisation, hardware reset, termination, and the order in which
a step looks at its inputs. -/

namespace Sys2Proof.Machine

/-! ### The `DISP` space (R37, R38, R44) -/

/-- The byte at a digit position, none where the spec does not give it. -/
def Memory.read (m : Memory) (a : Nat) : Option Byte :=
  match m with
  | [] => none
  | c :: rest => if c.1 = a then some c.2 else Memory.read rest a

/-- The insertion of a byte at its place in the rising list. -/
def Memory.insert (m : Memory) (a : Nat) (v : Byte) : Memory :=
  match m with
  | [] => [(a, v)]
  | c :: rest =>
    if a < c.1 then (a, v) :: c :: rest
    else if a = c.1 then (a, v) :: rest
    else c :: Memory.insert rest a v

/-- `MemWrite(DISP, a, 1, v)`; positions 6 and above do not exist and hold nothing (R44). -/
def Memory.write (m : Memory) (a : Nat) (v : Byte) : Memory :=
  if a < Config.numDigits then Memory.insert m a v else m

/-- `for k in 0 .. len(segs)-1: MemWrite(DISP, a + k, 1, segs[k])` (R38). -/
def Memory.writeList (m : Memory) (a : Nat) (segs : List Byte) : Memory :=
  match segs with
  | [] => m
  | v :: rest => Memory.writeList (Memory.write m a v) (a + 1) rest

/-- The positions from `a` on, `n` of them, are no longer known. -/
def Memory.forgetRange (m : Memory) (a n : Nat) : Memory :=
  m.filter fun c => decide (c.1 < a) || decide (a + n ≤ c.1)

/-- The canonical form: positions strictly rising, and none that does not exist. -/
abbrev Memory.wf (m : Memory) : Prop :=
  List.Pairwise (fun c d : Host.Cell => c.1 < d.1) m ∧ ∀ c ∈ m, c.1 < Config.numDigits

/-! ### The attached writes (R19) -/

/-- A write to a tracking register (R83, R91, R22, R23). -/
def TrackWrite.apply (w : TrackWrite) (t : Tracking) : Tracking :=
  match w with
  | .loadByte v => { t with shift := v, bitcnt := 0#4 }
  | .shiftBit => { t with shift := t.shift >>> 1, bitcnt := t.bitcnt + 1#4 }
  | .clearByteIdx => { t with byteidx := 0#3 }
  | .nextByteIdx => { t with byteidx := t.byteidx + 1#3 }
  | .setSeq q => { t with seq := q }
  | .setTxn x => { t with txn := x }

/-- The effect at a working display (R38), and where the spec gives none (U3, U4, U6). An update that begins in step and
with both lines released makes its positions known. Any other makes none known: its first transaction may not be received
as one, so the addressing mode is in doubt, and only after its end is everything well formed again (R152). Log entry 5. -/
def DisplayWrite.apply (w : DisplayWrite) (d : Display) : Display :=
  match w with
  | .forget => .unknown
  | .beginUpdate pos n linesIdle =>
    if d.inStep && linesIdle then { d with digits := Memory.forgetRange d.digits pos n, control := none } else .unknown
  | .selectAutoIncrement => { d with autoIncrement := d.inStep }
  | .writeDigits pos segs =>
    if d.autoIncrement then { d with digits := Memory.writeList d.digits pos segs } else { d with digits := [] }
  | .setControl b => { d with inStep := true, control := some b }

/-- One attached write. -/
def Attached.apply (w : Attached) (s : State) : State :=
  match w with
  | .track t => { s with tracking := t.apply s.tracking }
  | .display d => { s with display := d.apply s.display }

/-- The writes attached to one event, in order. -/
def applyWrites (ws : List Attached) (s : State) : State :=
  match ws with
  | [] => s
  | w :: rest => applyWrites rest (w.apply s)

/-! ### Expansion (R19) -/

/-- `Expand` attaches each write to the event emitted just before it; the writes before the first event are performed
when the command is accepted, and are the first component. -/
def compile (acts : List Action) : List Attached × List PendingEvent :=
  match acts with
  | [] => ([], [])
  | .write w :: rest => (w :: (compile rest).1, (compile rest).2)
  | .emit e :: rest => ([], ⟨e, (compile rest).1⟩ :: (compile rest).2)

/-- The event list of a piece of pseudocode. -/
def emitted (acts : List Action) : List Event :=
  match acts with
  | [] => []
  | .write _ :: rest => emitted rest
  | .emit e :: rest => e :: emitted rest

/-- A (mode-set, settle) pair: the only shape in which the framer emits events (R80). -/
def pair (l : Line) (m : Mode) : List Action := [.emit (.modeSet l m), .emit .settle]

/-! ### The command port (R26, R110, R122) -/

/-- The block is not `READY`: the command is not taken; no response, no event, no state change (R19, V10). -/
def notAccepted (s : State) : State := { s with out := .quiet }

/-- The command is accepted: the writes before the first event are performed, `PEND <- Expand(op)`,
`READY -> BUSY` (R19, R20), response `OK` (R110). -/
def accept (acts : List Action) (s : State) : State :=
  if s.ready then
    let s' := applyWrites (compile acts).1 s
    { s' with
      pend := (compile acts).2
      life := if (compile acts).2.isEmpty then .ready else .busy
      out := { PortOutputs.quiet with
        resp := some ⟨.ok, 0#8⟩, done := (compile acts).2.isEmpty } }
  else notAccepted s

/-- The command is accepted, emits nothing and completes at once with a result on `resp_data` (R96). -/
def answer (data : Byte) (s : State) : State :=
  if s.ready then { s with out := { PortOutputs.quiet with resp := some ⟨.ok, data⟩, done := true } }
  else notAccepted s

/-- The command is rejected: a response, no event, no state change, the block stays `READY` (R115, R116, R122). -/
def reject (code : RespCode) (data : Byte) (s : State) : State :=
  if s.ready then { s with out := { PortOutputs.quiet with resp := some ⟨code, data⟩ } } else notAccepted s

/-- A word that selects no row (R63, R116). -/
def rejectIllegal (s : State) : State := reject .illegalCmd 0#8 s

/-! ### Fatal errors and termination (R114, R118, R121) -/

/-- What is known of the display when the running operation is cut: nothing, if one was running (U4). -/
def displayAfterCut (s : State) : Display := if s.pend.isEmpty then s.display else .unknown

/-- Entry to a fatal error: `LIFE <- FAULTED`, `FCAUSE <- cause`, `PEND <- []`; nothing else is saved (R121). The
cause is also the response code of the step (log entry 8). -/
def raiseFatal (cause : FaultCause) (s : State) : State :=
  { s with
    life := .faulted
    fcause := cause
    pend := []
    display := displayAfterCut s
    out := { s.out with resp := some ⟨cause.respCode, 0#8⟩ } }

/-- `GpioError(l, m)`: the failing call has been issued, its event is not recorded, and `MODE[l]` holds its old value
or `m`, a free value (R114, U2). -/
def raiseGpioError (l : Line) (m : Mode) (s : State) : State :=
  let s' := s.setMode l (if Config.failedModeSetTakes s.freeCount then m else s.mode l)
  raiseFatal .gpioError
    { s' with freeCount := s.freeCount + 1, out := { s.out with gpio := some ⟨s.pinId l, m⟩ } }

/-- Process termination: `LIFE <- TERMINATED`, `PEND <- []`, every other register keeps its value (R118). -/
def terminate (s : State) : State :=
  { s with life := .terminated, pend := [], display := displayAfterCut s }

/-- Hardware reset: every register at its reset value (R140). The parameter `SEGROM[6..15]`, the standing levels of the
configuration ports, the coming inputs and the model's counter are no registers and stay; the initialisation that follows
samples the ports of its own step (log entries 18 and 21). The display is outside the block: reset does not bring one that
is out of step back into step, and a reset in the middle of an operation puts it out of step (U4, R151; log entry 5). -/
def hardwareReset (s : State) : State :=
  { State.reset with
    display := { Display.unknown with inStep := (displayAfterCut s).inStep }
    segromHigh := s.segromHigh
    platform := s.platform
    script := s.script
    freeCount := s.freeCount }

/-! ### Initialisation (R142) -/

/-- `PinValid(id)` (R6, R112). -/
def PlatformInputs.pinValid (p : PlatformInputs) (id : Nat) : Bool := p.validPins.contains id

/-- The startup checks in the order of R120; none is a good start. -/
def startupCheck (p : PlatformInputs) : Option FaultCause :=
  if p.cfgValid = false then some .configError
  else if p.pinValid p.cfgClkPin = false ∨ p.pinValid p.cfgDioPin = false ∨ p.cfgClkPin = p.cfgDioPin then
    some .configError
  else if p.gpioAvail = false then some .gpioError
  else none

/-- `PINID` and `BRIGHT` are loaded from the configuration and `LIFE <- READY` (R142). -/
def loadConfiguration (p : PlatformInputs) (s : State) : State :=
  { s with
    pinClk := p.cfgClkPin
    pinDio := p.cfgDioPin
    bright := p.cfgBrightness
    life := .ready }

/-- Initialisation with the sampled configuration `p`: it emits no event and sets no mode (R142). -/
def initialise (p : PlatformInputs) (s : State) : State :=
  match startupCheck p with
  | some cause => raiseFatal cause s
  | none => loadConfiguration p s

/-! ### One event (R19, R74, R75) -/

/-- The event has been performed: it is recorded, its attached writes are made, `PEND <- rest`, and
`BUSY -> READY` with `done` when nothing is left (R19). -/
def finishEvent (p : PendingEvent) (rest : List PendingEvent) (s : State) : State :=
  let s' := applyWrites p.writes { s with trace := s.trace ++ [p.event] }
  { s' with
    pend := rest
    life := if rest.isEmpty then .ready else .busy
    out := { s.out with done := rest.isEmpty } }

/-- The successful mode-set call `setMode(PINID[l], m)` (R74). -/
def issueModeSet (l : Line) (m : Mode) (s : State) : State :=
  { s.setMode l m with out := { s.out with gpio := some ⟨s.pinId l, m⟩ } }

/-- The step of a running operation: the head of `PEND` is removed and performed (R19). `gpioFail` is the answer of
the GPIO subsystem if the event is a mode-set. -/
def performHead (gpioFail : Bool) (s : State) : Host.Outcome State Fault Refusal :=
  match s.pend with
  | [] => .fault .busyWithNothingPending
  | p :: rest =>
    match p.event with
    | .settle => .next (finishEvent p rest s)
    | .modeSet l m =>
      if gpioFail then .next (raiseGpioError l m s) else .next (finishEvent p rest (issueModeSet l m s))

/-! ### The inputs of a step (R26) -/

/-- The port levels the coming step samples. -/
def State.inputs (s : State) : PortInputs := s.script.headD .quiet

/-- What the configuration ports and the platform show in the coming step (R26, R142): the standing levels, unless the
script gives others for this step. Log entry 21. -/
def State.configPorts (s : State) : PlatformInputs := s.inputs.config.getD s.platform

/-- The inputs are sampled and the last step's output pulses end. -/
def beginStep (s : State) : State := { s with script := s.script.tail, out := .quiet }

/-- The order in which a step looks at its inputs: reset, termination, then what the life-cycle state says (R19, R20,
R118, R140, R142; log entry 7). `run` is what a command word does. -/
def cycle (run : CodeWord → State → Host.Outcome State Fault Refusal) (s : State) :
    Host.Outcome State Fault Refusal :=
  if s.inputs.rstN = false then .next (hardwareReset (beginStep s))
  else if s.inputs.term then .next (terminate (beginStep s))
  else
    match s.life with
    | .uninit => .next (initialise s.configPorts (beginStep s))
    | .ready =>
      match s.inputs.cmd with
      | none => .next (beginStep s)
      | some w => run w (beginStep s)
    | .busy => performHead s.inputs.gpioFail (beginStep s)
    | .faulted => .next (beginStep s)
    | .terminated => .next (beginStep s)

/-- The state in which the next step takes the command word `w`: an initialised block with nothing running and `w` on
the command port. DESIGN CHOICE, log entry 6: it stands for a block that a host has made ready, so from `UNINIT` it loads
`PINID` and `BRIGHT` from the standing configuration WITHOUT the startup checks of R111 to R113, whatever `cfg_valid`,
`PinValid` and `gpio_avail` say, and it makes a running, faulted or terminated block ready too. Dropping a running operation is a cut for the display:
nothing is known of it afterwards and it is out of step, as U4 has it for every cut (log entry 5). No input of the hardware
does any of this; `initialise` is what the machine does. -/
def presentWord (w : CodeWord) (s : State) : State :=
  let s' := if s.life = .uninit then loadConfiguration s.platform s else s
  { s' with
    life := .ready
    pend := []
    display := displayAfterCut s'
    script := { PortInputs.quiet with cmd := some w } :: s.script }

end Sys2Proof.Machine
end

