-- ==== Sys2Proof/Machine/LineDriver.lean ====
section
/-! DEFINITION. The line driver: `driveLow`, `release`, `settle` (R70 to R76). Issued directly they are checked against
nothing (R76); what the display makes of them is not given (U3, U6). -/

namespace Sys2Proof.Machine

/-- `driveLow(l)` (R71). -/
def driveLowActions (l : Line) : List Action := [.emit (.modeSet l .output)]

/-- `release(l)` (R72). -/
def releaseActions (l : Line) : List Action := [.emit (.modeSet l .input)]

/-- `settle()` (R73). -/
def settleActions : List Action := [.emit .settle]

/-- The wire bytes sent are not those of a `setSegments`: nothing is known of the display (U3, U6). -/
def forgetDisplay : Action := .write (.display .forget)

/-- `DRVLOW` (R71). -/
def execDrvlow (l : Line) (s : State) : Host.Outcome State Fault Refusal :=
  .next (accept (forgetDisplay :: driveLowActions l) s)

/-- `RELEASE` (R72). -/
def execRelease (l : Line) (s : State) : Host.Outcome State Fault Refusal :=
  .next (accept (forgetDisplay :: releaseActions l) s)

/-- `SETTLE` (R73): no line moves, so what is known of the display stays. -/
def execSettle (s : State) : Host.Outcome State Fault Refusal := .next (accept settleActions s)

end Sys2Proof.Machine
end

