-- ==== Sys2Proof/Machine/Framer.lean ====
section
/-! DEFINITION. The byte framer: `start`, `stop`, `writeByte` (R80 to R88). None of them reads any state (R80). -/

namespace Sys2Proof.Machine

/-- `TXN <- t` (R23). -/
def setTxn (t : TxnState) : Action := .write (.track (.setTxn t))

/-- `start()` (R81). -/
def startActions : List Action := pair .dio .output ++ [setTxn .started]

/-- `stop()` (R82). -/
def stopActions : List Action :=
  pair .dio .output ++ pair .clk .input ++ pair .dio .input ++ [setTxn .stopped]

/-- The mode that transmits a bit: released for 1, driven low for 0 (R40, R51). -/
def bitMode (b : Bool) : Mode := if b then .input else .output

/-- The bit slot (R51). -/
def bitSlot (b : Bool) : List Action := pair .clk .output ++ pair .dio (bitMode b) ++ pair .clk .input

/-- The acknowledgement slot: on the clock line only, never sampled, ending with the clock low (R52). -/
def ackSlot : List Action := pair .clk .output ++ pair .clk .input ++ pair .clk .output

/-- The bit loop of `writeByte` for bits `i`, ..., `i + n - 1` (R83). The bit sent is `SHIFT[0]`, which is bit `i` of
the value after `i` shifts (R86). -/
def bitLoop (v : Byte) (i n : Nat) : List Action :=
  match n with
  | 0 => []
  | k + 1 => bitSlot (v.getLsbD i) ++ [.write (.track .shiftBit)] ++ bitLoop v (i + 1) k

/-- `writeByte(v)` (R83). -/
def writeByteActions (v : Byte) : List Action :=
  [.write (.track (.loadByte v))] ++ bitLoop v 0 8 ++ ackSlot ++ [setTxn .byteSent]

/-- `START` (R81). -/
def execStart (s : State) : Host.Outcome State Fault Refusal := .next (accept (forgetDisplay :: startActions) s)

/-- `STOP` (R82). -/
def execStop (s : State) : Host.Outcome State Fault Refusal := .next (accept (forgetDisplay :: stopActions) s)

/-- `WRBYTE` (R83). -/
def execWrbyte (v : Byte) (s : State) : Host.Outcome State Fault Refusal :=
  .next (accept (forgetDisplay :: writeByteActions v) s)

end Sys2Proof.Machine
end

