-- ==== Sys2Proof/Machine/SegmentApi.lean ====
section
/-! DEFINITION. The public operation `setSegments` (R90 to R95) and the digit lookup (R96). -/

namespace Sys2Proof.Machine

/-- `SEQ <- q` (R22). -/
def setSeq (q : SeqState) : Action := .write (.track (.setSeq q))

/-- The bytes of a transaction, one frame each (R54). -/
def byteFrames (bytes : List Byte) : List Action :=
  match bytes with
  | [] => []
  | v :: rest => writeByteActions v ++ byteFrames rest

/-- The payload loop of transaction 2 (R91). -/
def payloadActions (segs : List Byte) : List Action :=
  match segs with
  | [] => []
  | v :: rest => writeByteActions v ++ [.write (.track .nextByteIdx)] ++ payloadActions rest

/-- Transaction 1: mode-select (R93). -/
def transaction1 : List Action := startActions ++ writeByteActions modeSelectByte ++ stopActions

/-- Transaction 2: address-select and the payload (R94). -/
def transaction2 (pos : BitVec 3) (segs : List Byte) : List Action :=
  startActions ++ writeByteActions (addressSelectByte pos) ++ [.write (.track .clearByteIdx)]
    ++ payloadActions segs ++ stopActions

/-- Transaction 3: display control (R95). -/
def transaction3 (bright : BitVec 4) : List Action :=
  startActions ++ writeByteActions (displayControlByte bright) ++ stopActions

/-- Both lines are released, so that a `start()` issued now makes the data line fall while the clock is high, a true
start condition on the wire (R81, R152). Whether that start is also in order (R84, R147) is what `Display.inStep` says. -/
def State.linesIdle (s : State) : Bool := decide (s.modeClk = .input) && decide (s.modeDio = .input)

/-- `setSegments(segs, pos)` after its check (R91), with the effect at the display (R38, log entry 5). -/
def setSegmentsActions (bright : BitVec 4) (linesIdle : Bool) (pos : BitVec 3) (segs : List Byte) : List Action :=
  [.write (.display (.beginUpdate pos.toNat segs.length linesIdle))]
    ++ transaction1 ++ [setSeq .cmd1Framed, .write (.display .selectAutoIncrement)]
    ++ transaction2 pos segs ++ [setSeq .cmd2PayloadFramed, .write (.display (.writeDigits pos.toNat segs))]
    ++ transaction3 bright ++ [setSeq .cmd3Framed, setSeq .idle, .write (.display (.setControl bright))]

/-- `SETSEG`: the argument check (R92, R115), then the three transactions (R91). The block's own effect does not depend on
whether a transaction is open (R147); nothing is then known of the digits afterwards (U3). -/
def execSetseg (pos len : BitVec 3) (f : SegFields) (s : State) : Host.Outcome State Fault Refusal :=
  match argumentCheck pos len with
  | some cause => .next (reject .callerMisuse (misuseData cause len pos) s)
  | none => .next (accept (setSegmentsActions s.bright s.linesIdle pos (segmentsOperand len f)) s)

/-- `LOOKUP`: the ROM entry on `resp_data`; no event, no state written (R96). -/
def execLookup (d : BitVec 4) (s : State) : Host.Outcome State Fault Refusal := .next (answer (s.segrom d) s)

end Sys2Proof.Machine
end

