-- ==== Sys2Proof/Machine/WireBytes.lean ====
section
/-! DEFINITION. The four wire byte formats as instructions of the framer: each is the byte frame that carries the byte
(R53, R55 to R58, R64), taken one at a time on the byte port between the segment encoder and the framer (log entry 4).
Inside `SETSEG` the same frames are sent by its three transactions. -/

namespace Sys2Proof.Machine

/-- `WIRE_CMD1_MODE_SELECT`: the frame of `0x40` (R55). -/
def execWireModeSelect (s : State) : Host.Outcome State Fault Refusal :=
  .next (accept (forgetDisplay :: writeByteActions modeSelectByte) s)

/-- `WIRE_CMD2_ADDRESS_SELECT`: the frame of `0xC0 + p` for the "legal values 0 to 5". "The values `ppp` = 6 and 7 are
never emitted" (R56): they are illegal on the byte port (log entry 4). -/
def execWireAddressSelect (p : BitVec 3) (s : State) : Host.Outcome State Fault Refusal :=
  if p.toNat < Config.numDigits then
    .next (accept (forgetDisplay :: writeByteActions (addressSelectByte p)) s)
  else .next (rejectIllegal s)

/-- `WIRE_CMD3_DISPLAY_CONTROL`: the frame of `0x80 + b` (R57). -/
def execWireDisplayControl (b : BitVec 4) (s : State) : Host.Outcome State Fault Refusal :=
  .next (accept (forgetDisplay :: writeByteActions (displayControlByte b)) s)

/-- `WIRE_SEGMENT_BYTE`: the frame of the byte as it stands; "the block does not inspect it" (R58). -/
def execWireSegment (aux : Bool) (gfedcba : BitVec 7) (s : State) : Host.Outcome State Fault Refusal :=
  .next (accept (forgetDisplay :: writeByteActions (segmentByte aux gfedcba)) s)

end Sys2Proof.Machine
end

