-- ==== Sys2Proof/Machine/Dispatch.lean ====
section
/-! DEFINITION. Which meaning each instruction has. -/

namespace Sys2Proof.Machine

def exec (i : Instr) (s : State) : Host.Outcome State Fault Refusal :=
  match i with
  | .drvlow l => Sys2Proof.Machine.execDrvlow l s
  | .release l => Sys2Proof.Machine.execRelease l s
  | .settle => Sys2Proof.Machine.execSettle s
  | .start => Sys2Proof.Machine.execStart s
  | .stop => Sys2Proof.Machine.execStop s
  | .wrbyte v => Sys2Proof.Machine.execWrbyte v s
  | .setseg pos len f => Sys2Proof.Machine.execSetseg pos len f s
  | .lookup d => Sys2Proof.Machine.execLookup d s
  | .wireModeSelect => Sys2Proof.Machine.execWireModeSelect s
  | .wireAddressSelect p => Sys2Proof.Machine.execWireAddressSelect p s
  | .wireDisplayControl b => Sys2Proof.Machine.execWireDisplayControl b s
  | .wireSegment aux pat => Sys2Proof.Machine.execWireSegment aux pat s

end Sys2Proof.Machine
end

