-- ==== Sys2Proof/Machine/Step.lean ====
section
/-! DEFINITION. One step of ODLD. -/

namespace Sys2Proof.Machine

/-- What a command word does: the meaning of the instruction it decodes to, or the rejection of R116. -/
def runWord (w : CodeWord) (s : State) : Host.Outcome State Fault Refusal :=
  match decode w with
  | .ok i => exec i s
  | .error _ => .next (rejectIllegal s)

/-- One step (R19, R20): a command taken, one event performed, initialisation, termination, reset, or nothing. -/
def step (s : State) : Host.Outcome State Fault Refusal := cycle runWord s

/-- The state in which the next step takes the instruction whose bits are `w`. -/
def State.withFetchWord (s : State) (nbits w : Nat) : State := presentWord (codeWordOf nbits w) s

end Sys2Proof.Machine
end

