-- ==== Sys2Proof/Safety.lean ====
section
/-! DEFINITION. The terms claims use: the wire formats as event lists (R51 to R54), what an event list does to the modes
and the line levels, what counts as a well-formed event list and a well-bracketed operation, a calm run, and the
invariants. -/

namespace Sys2Proof.Safety

open Sys2Proof.Machine

/-! ### The wire formats (R51 to R54, R81, R82, R91) -/

/-- The bit slot (R51): six events. -/
def bitSlotEvents (b : Bool) : List Event :=
  [.modeSet .clk .output, .settle, .modeSet .dio (if b then .input else .output), .settle,
    .modeSet .clk .input, .settle]

/-- The acknowledgement slot (R52): six events on the clock line. -/
def ackSlotEvents : List Event :=
  [.modeSet .clk .output, .settle, .modeSet .clk .input, .settle, .modeSet .clk .output, .settle]

/-- The byte frame (R53): slots for bits 0 to 7 in that order, then the acknowledgement slot. -/
def byteFrameEvents (v : Byte) : List Event :=
  (List.range 8).flatMap (fun i => bitSlotEvents (v.getLsbD i)) ++ ackSlotEvents

/-- The start sequence (R54, R81). -/
def startEvents : List Event := [.modeSet .dio .output, .settle]

/-- The stop sequence (R54, R82). -/
def stopEvents : List Event :=
  [.modeSet .dio .output, .settle, .modeSet .clk .input, .settle, .modeSet .dio .input, .settle]

/-- `T(bytes)`, the transaction frame (R54, R91). -/
def transactionEvents (bytes : List Byte) : List Event :=
  startEvents ++ bytes.flatMap byteFrameEvents ++ stopEvents

/-- `T([0x40]) ++ T([0xC0 + p] ++ segs) ++ T([0x80 + BRIGHT])` (R91). -/
def updateEvents (segs : List Byte) (pos : BitVec 3) (bright : BitVec 4) : List Event :=
  transactionEvents [0x40#8] ++ transactionEvents ((0xC0#8 + pos.zeroExtend 8) :: segs)
    ++ transactionEvents [0x80#8 + bright.zeroExtend 8]

/-! ### What an event list does -/

def isModeSet : Event → Bool
  | .modeSet _ _ => true
  | .settle => false

def isSettle : Event → Bool
  | .modeSet _ _ => false
  | .settle => true

/-- The number of mode-sets of an event list (R87, R101). -/
def modeSetCount (es : List Event) : Nat := es.countP isModeSet

/-- The number of settles of an event list (R87, R101). -/
def settleCount (es : List Event) : Nat := es.countP isSettle

/-- The least duration of an event list: its settles times `SETTLE_DELAY` (R154). -/
def leastDuration (es : List Event) : Nat := settleCount es * Config.settleDelay

/-- The mode of line `l` after the events `es`, from mode `m` (R11). -/
def modeAfter (l : Line) (m : Mode) (es : List Event) : Mode :=
  match es with
  | [] => m
  | .settle :: rest => modeAfter l m rest
  | .modeSet k x :: rest => modeAfter l (if k = l then x else m) rest

/-- "every `M` is immediately followed by exactly one `S`, and no `S` occurs without an `M` before it" (R80). -/
def pairedWithSettles (es : List Event) : Bool :=
  match es with
  | [] => true
  | .modeSet _ _ :: .settle :: rest => pairedWithSettles rest
  | _ :: _ => false

/-! ### Line levels, with nothing else pulling a line low (R14, R88) -/

/-- The levels `(CLK, DIO)` after each event, from the modes `c`, `d`. -/
def levels (c d : Mode) (es : List Event) : List (Bool × Bool) :=
  match es with
  | [] => []
  | .settle :: rest => (lineLevel c true, lineLevel d true) :: levels c d rest
  | .modeSet .clk x :: rest => (lineLevel x true, lineLevel d true) :: levels x d rest
  | .modeSet .dio x :: rest => (lineLevel c true, lineLevel x true) :: levels c x rest

/-- How often a condition on two successive levels holds, from the level `a`. -/
def countEdges (f : Bool × Bool → Bool × Bool → Bool) (a : Bool × Bool) (ls : List (Bool × Bool)) : Nat :=
  match ls with
  | [] => 0
  | b :: rest => (if f a b then 1 else 0) + countEdges f b rest

/-- `DIO` falls while `CLK` is high: a start condition (R81). -/
def startEdge (a b : Bool × Bool) : Bool := a.1 && b.1 && a.2 && !b.2

/-- `DIO` rises while `CLK` is high: a stop condition (R82). -/
def stopEdge (a b : Bool × Bool) : Bool := a.1 && b.1 && !a.2 && b.2

/-- `CLK` rises. -/
def clockRise (a b : Bool × Bool) : Bool := !a.1 && b.1

/-! ### The reference receiver of V11 (G4, from general knowledge; log entry 12) -/

/-- A receiver: whether a transaction is open, the bits of the byte being received, the bytes of the open transaction,
and the transactions received. -/
structure Receiver where
  inside : Bool
  bits : List Bool
  bytes : List Byte
  received : List (List Byte)
  deriving DecidableEq, Repr

/-- Bits in the order received, least significant first (R40). -/
def byteOfBits (bits : List Bool) : Byte :=
  match bits with
  | [] => 0#8
  | b :: rest => (byteOfBits rest <<< 1) ||| (if b then 1#8 else 0#8)

/-- One change of levels: data falling with the clock high is a start, data rising with the clock high a stop; a
clock rise samples the data line, and the ninth rise of a byte is ignored and ends it (V11). -/
def Receiver.observe (r : Receiver) (a b : Bool × Bool) : Receiver :=
  if startEdge a b then ⟨true, [], [], r.received⟩
  else if stopEdge a b then
    if r.inside then ⟨false, [], [], r.received ++ [r.bytes]⟩ else r
  else if clockRise a b && r.inside then
    if r.bits.length < 8 then { r with bits := r.bits ++ [b.2] }
    else { r with bits := [], bytes := r.bytes ++ [byteOfBits r.bits] }
  else r

/-- The receiver over a level sequence, from the level `a`. -/
def Receiver.run (r : Receiver) (a : Bool × Bool) (ls : List (Bool × Bool)) : Receiver :=
  match ls with
  | [] => r
  | b :: rest => Receiver.run (r.observe a b) b rest

/-- A receiver that has seen nothing. -/
def Receiver.initial : Receiver := ⟨false, [], [], []⟩

/-- What the receiver recovers from an event list emitted from both lines released. -/
def receivedFrom (es : List Event) : List (List Byte) :=
  (Receiver.initial.run (true, true) (levels .input .input es)).received

/-! ### Bracketing (R23, R84) -/

/-- The `TXN` writes of a piece of pseudocode, one for each framer operation in it. -/
def txnWrites (acts : List Action) : List TxnState :=
  match acts with
  | [] => []
  | .write (.track (.setTxn t)) :: rest => t :: txnWrites rest
  | _ :: rest => txnWrites rest

/-- Every operation of the sequence is in order, from `TXN` = `t`, and no transaction is left open or without a byte
(R23, R84). -/
def wellBracketed (t : TxnState) (ws : List TxnState) : Bool :=
  match ws with
  | [] => startInOrder t
  | .started :: rest => startInOrder t && wellBracketed .started rest
  | .byteSent :: rest => insideTransaction t && wellBracketed .byteSent rest
  | .stopped :: rest => decide (t = .byteSent) && wellBracketed .stopped rest
  | .idle :: _ => false

/-! ### Runs -/

/-- During the next `n` steps there is no reset and no termination, and no mode-set call fails. Commands may be
presented: a running operation does not take them (R102). -/
abbrev Calm (n : Nat) (s : State) : Prop :=
  ∀ x ∈ s.script.take n, x.rstN = true ∧ x.term = false ∧ x.gpioFail = false

/-- This step falls neither in a reset nor on a termination. -/
abbrev Running (s : State) : Prop := s.inputs.rstN = true ∧ s.inputs.term = false

/-- The running operation's events that are not yet emitted. -/
def pendingEvents (s : State) : List Event := s.pend.map PendingEvent.event

/-- `t` is `s` with an operation accepted whose events are `es`: `PEND` holds them, `LIFE` is `BUSY`, the response is
`OK`, and nothing has been emitted or set (R19, R110). -/
structure Accepted (s t : State) (es : List Event) : Prop where
  pend : pendingEvents t = es
  life : t.life = .busy
  out : t.out = ⟨false, some ⟨.ok, 0#8⟩, none⟩
  modes : ∀ l, t.mode l = s.mode l
  pins : ∀ l, t.pinId l = s.pinId l
  bright : t.bright = s.bright
  fcause : t.fcause = s.fcause
  trace : t.trace = s.trace
  seq : t.tracking.seq = s.tracking.seq
  txn : t.tracking.txn = s.tracking.txn
  byteidx : t.tracking.byteidx = s.tracking.byteidx
  freeCount : t.freeCount = s.freeCount
  rom : t.segromHigh = s.segromHigh
  platform : t.platform = s.platform
  script : t.script = s.script

/-! ### Invariants -/

/-- The tracking registers are in range, and `CMD3_FRAMED` is not visible between steps (R10, R22). -/
abbrev trackingInRange (t : Tracking) : Prop :=
  t.bitcnt.toNat ≤ 8 ∧ t.byteidx.toNat ≤ Config.numDigits ∧ t.seq ≠ .cmd3Framed

/-- The tracking registers after the writes attached to one event. -/
def trackThrough (ws : List Attached) (t : Tracking) : Tracking :=
  match ws with
  | [] => t
  | .track w :: rest => trackThrough rest (w.apply t)
  | .display _ :: rest => trackThrough rest t

/-- What is known of the display after a list of attached writes. -/
def displayThrough (ws : List Attached) (d : Display) : Display :=
  match ws with
  | [] => d
  | .track _ :: rest => displayThrough rest d
  | .display w :: rest => displayThrough rest (w.apply d)

/-- The tracking registers after everything that is still pending. -/
def trackingAtEnd (ps : List PendingEvent) (t : Tracking) : Tracking :=
  match ps with
  | [] => t
  | p :: rest => trackingAtEnd rest (trackThrough p.writes t)

/-- What is known of the display after everything that is still pending. -/
def displayAtEnd (ps : List PendingEvent) (d : Display) : Display :=
  match ps with
  | [] => d
  | p :: rest => displayAtEnd rest (displayThrough p.writes d)

/-- If the display is in step when the running operation has completed (now, if none runs), then both lines are released
and no transaction is open: no claim about `DISP` is made in the middle of an unbracketed sequence (R84, U3). -/
def inStepMeansBracketed (s : State) : Prop :=
  (displayAtEnd s.pend s.display).inStep = true →
    (∀ l, modeAfter l (s.mode l) (pendingEvents s) = .input) ∧
      startInOrder (trackingAtEnd s.pend s.tracking).txn = true

/-- What is known of the digits is known of a display in step (U3, U4, U6). -/
def knownOnlyInStep (d : Display) : Prop := d.inStep = false → d.digits = [] ∧ d.autoIncrement = false

/-- The tracking registers are in range now and after every event still pending, and end with `SEQ` = `IDLE` (R22). -/
def trackingSound (ps : List PendingEvent) (t : Tracking) : Prop :=
  match ps with
  | [] => trackingInRange t ∧ t.seq = .idle
  | p :: rest => trackingInRange t ∧ trackingSound rest (trackThrough p.writes t)

/-- The machine's invariant: an operation is running exactly when events are pending (R20); a fault cause is recorded
exactly when there is or was a fault (R21, R124); the `DISP` memory has its canonical form; the tracking registers are
in range, and `SEQ` is `IDLE` between operations (R10, R22); digits are known only of a display in step, and a display is in
step only where no transaction is left open (R84, U3). -/
structure StateInv (s : State) : Prop where
  busyIffPending : s.life = .busy ↔ s.pend ≠ []
  faultedHasCause : s.life = .faulted → s.fcause ≠ .none
  causeOnlyAfterFault : s.fcause ≠ .none → s.life = .faulted ∨ s.life = .terminated
  displayWf : Memory.wf s.display.digits
  inRange : trackingInRange s.tracking
  sound : s.life ≠ .faulted → s.life ≠ .terminated → trackingSound s.pend s.tracking
  digitsInStep : knownOnlyInStep s.display
  bracketed : inStepMeansBracketed s

/-- The modes are those the recorded events give from both lines released (R11, R140), as long as no mode-set call has
failed; after a failure only the line that did not fail is known (R114), which this invariant does not follow. -/
def ModesFollowTrace (s : State) : Prop :=
  s.fcause ≠ .gpioError → ∀ l, s.mode l = modeAfter l .input s.trace

end Sys2Proof.Safety
end

