-- ==== Sys2Proof/WellFormed.lean ====
section
/-! DEFINITION. Which instructions have legal operands: the range rule of R92 and the field range of R56. Every other
operand is in range by its width. -/

namespace Sys2Proof

/-- `startPosition` 0 to 5, at most 6 bytes, and `startPosition + len(segments)` at most 6, computed without truncation
(R92, R98 (d)). -/
def rangeLegal (pos len : BitVec 3) : Bool :=
  decide (pos.toNat < Config.numDigits) && decide (len.toNat ≤ Config.numDigits)
    && decide (pos.toNat + len.toNat ≤ Config.numDigits)

/-- The operands are legal. An instruction whose operands are not is decoded and then rejected as caller misuse (R63,
R92), it is not an illegal word. -/
def Instr.wf : Instr → Bool
  | .drvlow _ => true
  | .release _ => true
  | .settle => true
  | .start => true
  | .stop => true
  | .wrbyte _ => true
  | .setseg pos len _ => rangeLegal pos len
  | .lookup _ => true
  | .wireModeSelect => true
  | .wireAddressSelect p => decide (p.toNat < Config.numDigits)
  | .wireDisplayControl _ => true
  | .wireSegment _ _ => true

end Sys2Proof
end

