-- ==== Sys2Proof/Certificates/Slice0/Obligations.lean ====
section
/-! DEFINITION. The statements for the provers. -/

open Sys2Proof Sys2Proof.Machine Sys2Proof.Safety

/-! ### Encodings -/

/-- R60, whole: the table, its selection rule, its disjointness, its reserved operation codes, and the operation and
fields each row's words decode to. -/
def Obligations.HostWordSelectsItsRow : Prop :=
  hostTable.map (fun r => (r.mnemonic, r.pattern, r.mask)) =
      [("DRVLOW", 0x1000000000000000#64, 0xFFFFFFFFFFFFFFFE#64),
        ("RELEASE", 0x2000000000000000#64, 0xFFFFFFFFFFFFFFFE#64),
        ("SETTLE", 0x3000000000000000#64, 0xFFFFFFFFFFFFFFFF#64),
        ("START", 0x4000000000000000#64, 0xFFFFFFFFFFFFFFFF#64),
        ("STOP", 0x5000000000000000#64, 0xFFFFFFFFFFFFFFFF#64),
        ("WRBYTE", 0x6000000000000000#64, 0xFFFFFFFFFFFFFF00#64),
        ("SETSEG", 0x7000000000000000#64, 0xF88F000000000000#64),
        ("LOOKUP", 0x8000000000000000#64, 0xFFFFFFFFFFFFFFF0#64)] ∧
    (∀ (r : HostRow) (w : CmdWord), r.selects w = true ↔ w &&& r.mask = r.pattern) ∧
    (∀ (w : CmdWord), ∀ r ∈ hostTable, ∀ r' ∈ hostTable,
      r.selects w = true → r'.selects w = true → r = r') ∧
    (∀ (w : CmdWord), (w.extractLsb' 60 4 = 0#4 ∨ 9#4 ≤ w.extractLsb' 60 4) →
      ∀ r ∈ hostTable, r.selects w = false) ∧
    (∀ (w : CmdWord),
      (rowDrvlow.selects w = true → decodeHost w = .ok (.drvlow (if w.getLsbD 0 then .dio else .clk))) ∧
      (rowRelease.selects w = true → decodeHost w = .ok (.release (if w.getLsbD 0 then .dio else .clk))) ∧
      (rowSettle.selects w = true → decodeHost w = .ok .settle) ∧
      (rowStart.selects w = true → decodeHost w = .ok .start) ∧
      (rowStop.selects w = true → decodeHost w = .ok .stop) ∧
      (rowWrbyte.selects w = true → decodeHost w = .ok (.wrbyte (w.extractLsb' 0 8))) ∧
      (rowSetseg.selects w = true →
        ∃ f, decodeHost w = .ok (.setseg (w.extractLsb' 56 3) (w.extractLsb' 52 3) f)) ∧
      (rowLookup.selects w = true → decodeHost w = .ok (.lookup (w.extractLsb' 0 4))))

/-- R62, whole: the fields of a `SETSEG` word, its reserved bits, the operands assembled from the fields, that a field
at or beyond `LEN` is ignored by the operation, and the rule's two examples. -/
def Obligations.SetsegOperandsFromItsFields : Prop :=
  (∀ (w : CmdWord), w.extractLsb' 60 4 = 7#4 → w.getLsbD 59 = false → w.getLsbD 55 = false →
      w.extractLsb' 48 4 = 0#4 →
      ∃ f, decodeHost w = .ok (.setseg (w.extractLsb' 56 3) (w.extractLsb' 52 3) f) ∧
        ∀ k < 6, k < (w.extractLsb' 52 3).toNat →
          (segmentsOperand (w.extractLsb' 52 3) f)[k]? = some (w.extractLsb' (8 * k) 8)) ∧
    (∀ (w : CmdWord), w.extractLsb' 60 4 = 7#4 →
      (w.getLsbD 59 = true ∨ w.getLsbD 55 = true ∨ w.extractLsb' 48 4 ≠ 0#4) →
      decodeHost w = .error .reservedBits) ∧
    (∀ (len : BitVec 3) (f : SegFields), len.toNat ≤ 6 → (segmentsOperand len f).length = len.toNat) ∧
    (∀ (pos len : BitVec 3) (f g : SegFields) (s : State), segmentsOperand len f = segmentsOperand len g →
      exec (.setseg pos len f) s = exec (.setseg pos len g) s) ∧
    (∃ f, decodeHost 0x70606D664F5B063F#64 = .ok (.setseg 0#3 6#3 f) ∧
      segmentsOperand 6#3 f = [0x3F#8, 0x06#8, 0x5B#8, 0x4F#8, 0x66#8, 0x6D#8]) ∧
    ∃ f, decodeHost 0x7220000000005B86#64 = .ok (.setseg 2#3 2#3 f) ∧
      segmentsOperand 2#3 f = [0x86#8, 0x5B#8]

/-- Decoding the encoding of any instruction, well formed or not, gives it back. That the fields `SEGk` with `k >= LEN`,
which carry nothing (R62), are kept is the model's choice (log entry 20), and so is the position that goes with a wire
byte (log entry 4). -/
def Obligations.DecodeOfEncodeIsIdentity : Prop :=
  ∀ i : Instr, decode (encode i) = .ok i

/-- Each word has one meaning: a word that decodes is the encoding of what it decodes to. That this holds bit for bit is
the model's choice and no rule of the spec: the instruction keeps the fields `SEGk` with `k >= LEN` of a `SETSEG` word,
which R62 says carry nothing (log entry 20), and a wire byte goes with its position (log entry 4). -/
def Obligations.DecodedWordIsItsEncoding : Prop :=
  ∀ (w : CodeWord) (i : Instr), decode w = .ok i → encode i = w

/-- A few words of the spec's table of host words (V7) and of the wire formats decode as the spec says. -/
def Obligations.SpecWordsDecode : Prop :=
  decode (.host 0x1000000000000001#64) = .ok (.drvlow .dio) ∧
    decode (.host 0x2000000000000000#64) = .ok (.release .clk) ∧
    decode (.host 0x60000000000000FF#64) = .ok (.wrbyte 0xFF#8) ∧
    decode (.host 0x7510000000000071#64) = .ok (.setseg 5#3 1#3 ⟨0x71#8, 0#8, 0#8, 0#8, 0#8, 0#8⟩) ∧
    decode (.host 0x8000000000000005#64) = .ok (.lookup 5#4) ∧
    decode (.host 0x9000000000000000#64) = .error .reservedOperation ∧
    decode (.host 0x4000000000000001#64) = .error .reservedBits ∧
    decode (.wire .command 0xC2#8) = .ok (.wireAddressSelect 2#3) ∧
    decode (.wire .command 0x8F#8) = .ok (.wireDisplayControl 0xF#4) ∧
    decode (.wire .payload 0xDB#8) = .ok (.wireSegment true 0x5B#7)

/-- The three command bytes: the assembled values, and that no carry occurs, so each is its bit pattern (R55 to R57). That
a wire byte is an instruction whose code word carries its position, as the clauses about `encode` have it, is the model's
choice (log entry 4). -/
def Obligations.CommandBytesMatchTheirPatterns : Prop :=
  modeSelectByte = 0b01000000#8 ∧
    (∀ p : BitVec 3, p.toNat ≤ 5 →
      addressSelectByte p = 0b11000#5 ++ p ∧ (addressSelectByte p).toNat = 0xC0 + p.toNat ∧
        encode (.wireAddressSelect p) = .wire .command (addressSelectByte p)) ∧
    ∀ b : BitVec 4,
      displayControlByte b = 0b1000#4 ++ b ∧ (displayControlByte b).toNat = 0x80 + b.toNat ∧
        encode (.wireDisplayControl b) = .wire .command (displayControlByte b)

/-! ### Wire formats -/

/-- R53, whole: a byte frame is eight bit slots for bits 0 to 7 in that order and one acknowledgement slot, 54 events,
27 of them mode-sets and 27 settles, whatever the byte; and it is what `writeByte` emits. -/
def Obligations.ByteFrameIsEightSlotsAndAcknowledgement : Prop :=
  ∀ v : Byte,
    emitted (writeByteActions v) =
        bitSlotEvents (v.getLsbD 0) ++ bitSlotEvents (v.getLsbD 1) ++ bitSlotEvents (v.getLsbD 2)
          ++ bitSlotEvents (v.getLsbD 3) ++ bitSlotEvents (v.getLsbD 4) ++ bitSlotEvents (v.getLsbD 5)
          ++ bitSlotEvents (v.getLsbD 6) ++ bitSlotEvents (v.getLsbD 7) ++ ackSlotEvents ∧
      emitted (writeByteActions v) = byteFrameEvents v ∧
      (byteFrameEvents v).length = 54 ∧ modeSetCount (byteFrameEvents v) = 27 ∧
      settleCount (byteFrameEvents v) = 27

/-- A transaction of `n` bytes is `8 + 54 n` events with `4 + 27 n` mode-sets and as many settles (R54, R87), and lasts
at least `4 + 27 n` settle delays (R154). -/
def Obligations.TransactionEventCounts : Prop :=
  ∀ bytes : List Byte,
    (transactionEvents bytes).length = 8 + 54 * bytes.length ∧
      modeSetCount (transactionEvents bytes) = 4 + 27 * bytes.length ∧
      settleCount (transactionEvents bytes) = 4 + 27 * bytes.length ∧
      leastDuration (transactionEvents bytes) = (4 + 27 * bytes.length) * Config.settleDelay

/-- The events of `setSegments` are the three transactions of R91, a function of the segments, the position and the
brightness and of nothing else (R100), and have the counts of R101. -/
def Obligations.SetSegmentsEventsAreThreeTransactions : Prop :=
  ∀ (segs : List Byte) (pos : BitVec 3) (bright : BitVec 4) (linesIdle : Bool),
    emitted (setSegmentsActions bright linesIdle pos segs) =
        transactionEvents [0x40#8] ++ transactionEvents ((0xC0#8 + pos.zeroExtend 8) :: segs)
          ++ transactionEvents [0x80#8 + bright.zeroExtend 8] ∧
      (emitted (setSegmentsActions bright linesIdle pos segs)).length = 186 + 54 * segs.length ∧
      modeSetCount (emitted (setSegmentsActions bright linesIdle pos segs)) = 93 + 27 * segs.length ∧
      settleCount (emitted (setSegmentsActions bright linesIdle pos segs)) = 93 + 27 * segs.length

/-- R80: every framer operation, and the public operation built of them, is a list of (mode-set, settle) pairs. -/
def Obligations.EveryModeSetIsFollowedByOneSettle : Prop :=
  pairedWithSettles (emitted startActions) = true ∧
    pairedWithSettles (emitted stopActions) = true ∧
    (∀ v, pairedWithSettles (emitted (writeByteActions v)) = true) ∧
    ∀ bright linesIdle pos segs,
      pairedWithSettles (emitted (setSegmentsActions bright linesIdle pos segs)) = true

/-- `setSegments` always produces a well-bracketed sequence, with at least one byte in each transaction, when no
transaction is open (R84, R23). -/
def Obligations.SetSegmentsIsWellBracketed : Prop :=
  ∀ (segs : List Byte) (pos : BitVec 3) (bright : BitVec 4) (linesIdle : Bool) (t : TxnState),
    startInOrder t = true →
      wellBracketed t (txnWrites (setSegmentsActions bright linesIdle pos segs)) = true ∧
        (txnWrites (setSegmentsActions bright linesIdle pos segs)).length = 9 + segs.length

/-- R88 (a) and (c): in a transaction that begins with both lines released and that nothing else disturbs, `DIO` falls
once and rises once while the clock is high, the clock rises nine times a byte and once more, and both lines end
released. -/
def Obligations.TransactionHasOneStartAndOneStop : Prop :=
  ∀ bytes : List Byte, bytes ≠ [] →
    countEdges startEdge (true, true) (levels .input .input (transactionEvents bytes)) = 1 ∧
      countEdges stopEdge (true, true) (levels .input .input (transactionEvents bytes)) = 1 ∧
      countEdges clockRise (true, true) (levels .input .input (transactionEvents bytes)) = 9 * bytes.length + 1 ∧
      modeAfter .clk .input (transactionEvents bytes) = .input ∧
      modeAfter .dio .input (transactionEvents bytes) = .input

/-- The reference receiver of V11 recovers, from the line levels that the events of `setSegments` give WHEN THEY BEGIN WITH
BOTH LINES RELEASED (the premise of R88 and V11), exactly the bytes of its three transactions: for every expansion, and for
the events a legal `SETSEG` leaves pending. The levels are counted from both lines released and not from the modes of `s`: in
a ready state with a line driven low the real levels make no first start condition (R148, R152), and nothing is said of the
bytes then. The receiver is from general knowledge (G4, log entry 12); the events are the machine's. -/
def Obligations.ReceiverRecoversTheBytesOfAnUpdate : Prop :=
  (∀ (segs : List Byte) (pos : BitVec 3) (bright : BitVec 4) (linesIdle : Bool),
      receivedFrom (emitted (setSegmentsActions bright linesIdle pos segs)) =
        [[0x40#8], (0xC0#8 + pos.zeroExtend 8) :: segs, [0x80#8 + bright.zeroExtend 8]]) ∧
    ∀ (pos len : BitVec 3) (f : SegFields) (s : State), rangeLegal pos len = true → s.ready = true →
      ∃ t, exec (.setseg pos len f) s = .next t ∧
        receivedFrom (pendingEvents t) =
          [[0x40#8], (0xC0#8 + pos.zeroExtend 8) :: segmentsOperand len f, [0x80#8 + s.bright.zeroExtend 8]]

/-- R97: ORing `0x80` onto a segment byte that has bit 7 clear changes exactly one event of the update, the data
mode-set of bit slot 7 of that byte's frame. -/
def Obligations.AuxiliaryBitChangesOneEvent : Prop :=
  ∀ (segs : List Byte) (pos : BitVec 3) (bright : BitVec 4) (k : Nat) (v : Byte),
    segs[k]? = some v → v.getLsbD 7 = false →
      (updateEvents segs pos bright)[162 + 54 * k]? = some (.modeSet .dio .output) ∧
        updateEvents (segs.set k (withAuxiliary v)) pos bright =
          (updateEvents segs pos bright).set (162 + 54 * k) (.modeSet .dio .input)

/-! ### A step and a command -/

/-- A step of a ready block with a command on its port is the meaning of the instruction the command decodes to, at the
state with that step's inputs consumed and the output pulses of the step before ended. -/
def Obligations.StepRunsTheDecodedInstruction : Prop :=
  ∀ (s : State) (w : CodeWord) (i : Instr),
    s.life = .ready → Running s → s.inputs.cmd = some w → decode w = .ok i →
      step s = exec i { s with script := s.script.tail, out := .quiet }

/-- A row's word placed by the host's interface is what the next step runs, from any state (log entry 6). -/
def Obligations.PlacedWordIsRunNext : Prop :=
  ∀ (s : State) (nbits w : Nat) (i : Instr), decodeTableWord nbits w = some i →
    ∃ t, step (s.withFetchWord nbits w) = exec i t ∧ t.ready = true ∧ t.script = s.script ∧
      t.trace = s.trace ∧ (∀ l, t.mode l = s.mode l) ∧ t.tracking = s.tracking

/-- R116: a word that matches no row of R60 is rejected with `resp_code` = 4, no event and no state change. -/
def Obligations.WordOfNoRowIsRejected : Prop :=
  ∀ (s : State) (w : CmdWord),
    (∀ r ∈ hostTable, r.selects w = false) → s.ready = true → Running s → s.inputs.cmd = some (.host w) →
      step s = .next { s with script := s.script.tail, out := ⟨false, some ⟨.illegalCmd, 0#8⟩, none⟩ } ∧
        RespCode.illegalCmd.code = 4#3

/-- A block that is not ready takes no command: no response, no event, no state change (R20, V10). -/
def Obligations.NoInstructionIsTakenUnlessReady : Prop :=
  ∀ (i : Instr) (s : State), s.ready = false → exec i s = .next { s with out := .quiet }

/-- While an operation runs, what is on the command port makes no difference (R75, R102). -/
def Obligations.RunningOperationIgnoresCommands : Prop :=
  ∀ (s : State) (x : PortInputs) (rest : List PortInputs) (c : Option CodeWord), s.life = .busy →
    step { s with script := { x with cmd := c } :: rest } = step { s with script := x :: rest }

/-! ### The line driver -/

/-- R71: `driveLow(l)` is the one event `M(l, OUTPUT)`; it sets `MODE[l]` and nothing else of the block, presents
`PINID[l]`, and ends in `GpioError` if the call fails. That nothing is known of the display afterwards (log entry 5)
and that the failure is also the response of its step (log entry 8) are the model's. -/
def Obligations.DriveLowSetsItsLineToOutput : Prop :=
  ∀ (l : Line) (s : State), s.ready = true →
    ∃ t, exec (.drvlow l) s = .next t ∧ Accepted s t [.modeSet l .output] ∧ t.tracking = s.tracking ∧
      (Calm 1 s → Host.Core.run core 1 t =
        .next { s.setMode l .output with
          trace := s.trace ++ [.modeSet l .output]
          display := .unknown
          script := s.script.tail
          out := ⟨true, none, some ⟨s.pinId l, .output⟩⟩ }) ∧
      (Running s → s.inputs.gpioFail = true → ∃ u m, step t = .next u ∧ (m = s.mode l ∨ m = .output) ∧
        u = { s.setMode l m with
          life := .faulted
          fcause := .gpioError
          display := .unknown
          script := s.script.tail
          out := ⟨false, some ⟨.gpioError, 0#8⟩, some ⟨s.pinId l, .output⟩⟩
          freeCount := s.freeCount + 1 })

/-- R72: `release(l)` is the one event `M(l, INPUT)`; otherwise as R71, with the same two clauses of the model's (log
entries 5 and 8). -/
def Obligations.ReleaseSetsItsLineToInput : Prop :=
  ∀ (l : Line) (s : State), s.ready = true →
    ∃ t, exec (.release l) s = .next t ∧ Accepted s t [.modeSet l .input] ∧ t.tracking = s.tracking ∧
      (Calm 1 s → Host.Core.run core 1 t =
        .next { s.setMode l .input with
          trace := s.trace ++ [.modeSet l .input]
          display := .unknown
          script := s.script.tail
          out := ⟨true, none, some ⟨s.pinId l, .input⟩⟩ }) ∧
      (Running s → s.inputs.gpioFail = true → ∃ u m, step t = .next u ∧ (m = s.mode l ∨ m = .input) ∧
        u = { s.setMode l m with
          life := .faulted
          fcause := .gpioError
          display := .unknown
          script := s.script.tail
          out := ⟨false, some ⟨.gpioError, 0#8⟩, some ⟨s.pinId l, .input⟩⟩
          freeCount := s.freeCount + 1 })

/-- R73: `settle()` is the one event `S`; it writes `TRACE` only, cannot fail, and stands for at least one settle
delay. -/
def Obligations.SettleOnlyExtendsTheTrace : Prop :=
  ∀ s : State, s.ready = true →
    ∃ t, exec .settle s = .next t ∧ Accepted s t [.settle] ∧ t.tracking = s.tracking ∧
      leastDuration [.settle] = Config.settleDelay ∧
      (Running s → step t = .next { s with
        trace := s.trace ++ [.settle], script := s.script.tail, out := ⟨true, none, none⟩ })

/-! ### The framer -/

/-- `start()` drives the data line low and settles; `TXN` becomes `STARTED`, and nothing else of the block changes
(R81, R85). The display clause is the model's (log entry 5). -/
def Obligations.StartDrivesDataLow : Prop :=
  ∀ s : State, s.ready = true →
    ∃ t, exec .start s = .next t ∧ Accepted s t [.modeSet .dio .output, .settle] ∧
      t.tracking = s.tracking ∧
      (Calm 2 s → Host.Core.run core 2 t = .next { s with
        modeDio := .output
        tracking := { s.tracking with txn := .started }
        trace := s.trace ++ [.modeSet .dio .output, .settle]
        display := .unknown
        script := s.script.drop 2
        out := ⟨true, none, none⟩ })

/-- `stop()` emits its six events and leaves both lines released whatever the modes were; `TXN` becomes `STOPPED`,
and nothing else of the block changes (R82, R85). The display clause is the model's (log entry 5). -/
def Obligations.StopReleasesBothLines : Prop :=
  ∀ s : State, s.ready = true →
    ∃ t, exec .stop s = .next t ∧
      Accepted s t [.modeSet .dio .output, .settle, .modeSet .clk .input, .settle, .modeSet .dio .input, .settle] ∧
      t.tracking = s.tracking ∧
      (Calm 6 s → Host.Core.run core 6 t = .next { s with
        modeClk := .input
        modeDio := .input
        tracking := { s.tracking with txn := .stopped }
        trace := s.trace ++
          [.modeSet .dio .output, .settle, .modeSet .clk .input, .settle, .modeSet .dio .input, .settle]
        display := .unknown
        script := s.script.drop 6
        out := ⟨true, none, none⟩ })

/-- `writeByte(v)` emits the byte frame of `v`, leaves the clock low and the data line in the mode of bit 7, with
`SHIFT` = 0, `BITCNT` = 8 and `TXN` = `BYTE_SENT`, and changes nothing else of the block (R83, R85, R86). The display
clause is the model's (log entry 5). -/
def Obligations.WriteByteSendsItsFrame : Prop :=
  ∀ (v : Byte) (s : State), s.ready = true →
    ∃ t, exec (.wrbyte v) s = .next t ∧ Accepted s t (byteFrameEvents v) ∧
      t.tracking = { s.tracking with shift := v, bitcnt := 0#4 } ∧
      (Calm 54 s → Host.Core.run core 54 t = .next { s with
        modeClk := .output
        modeDio := if v.getLsbD 7 then .input else .output
        tracking := { s.tracking with shift := 0#8, bitcnt := 8#4, txn := .byteSent }
        trace := s.trace ++ byteFrameEvents v
        display := .unknown
        script := s.script.drop 54
        out := ⟨true, none, none⟩ })

/-- R86: after `k` shifts `SHIFT` is `value >> k` and `BITCNT` is `k`, `SHIFT[0]` is bit `k` of the value, and after
eight shifts `SHIFT` is 0. -/
def Obligations.ShiftRegisterPresentsEachBit : Prop :=
  ∀ (v : Byte) (t : Tracking) (k : Nat), k ≤ 8 →
    let u := (TrackWrite.shiftBit.apply)^[k] (TrackWrite.apply (.loadByte v) t)
    u.shift = v >>> k ∧ u.bitcnt.toNat = k ∧ (k ≤ 7 → u.shift.getLsbD 0 = v.getLsbD k) ∧
      (k = 8 → u.shift = 0#8) ∧ u.byteidx = t.byteidx ∧ u.seq = t.seq ∧ u.txn = t.txn

/-- In the middle of a byte the registers tell where it stands: after the first `6 k` events of `writeByte(v)`,
`SHIFT` = `v >> k`, `BITCNT` = `k` and `TXN` is still what it was (R17, R19, R83, V4). -/
def Obligations.RegistersTrackTheBitSlots : Prop :=
  ∀ (v : Byte) (s t : State) (k : Nat), s.ready = true → k ≤ 8 → Calm 48 s → exec (.wrbyte v) s = .next t →
    ∃ u, Host.Core.run core (6 * k) t = .next u ∧ u.tracking.shift = v >>> k ∧ u.tracking.bitcnt.toNat = k ∧
      u.tracking.txn = s.tracking.txn ∧ u.trace = s.trace ++ (byteFrameEvents v).take (6 * k) ∧
      pendingEvents u = (byteFrameEvents v).drop (6 * k)

/-! ### The segment API -/

/-- A legal `setSegments` is accepted whatever the coming inputs, and undisturbed it completes: the update of R91 is
appended to the trace, both lines end released, `SEQ` is `IDLE`, `TXN` is `STOPPED`, `BYTEIDX` is the number of segments,
and the other registers keep their values (R85, R91). In its middle the tracking registers tell where it stands (R19,
R22, R91): after the 62 events of transaction 1, `SEQ` is `CMD1_FRAMED`; after the address byte and `k` payload bytes
`BYTEIDX` is `k`, `TXN` is `BYTE_SENT`, and `SHIFT` holds the next payload byte if there is one; after transaction 2,
`SEQ` is `CMD2_PAYLOAD_FRAMED`. -/
def Obligations.SetSegmentsCompletesTheUpdate : Prop :=
  ∀ (pos len : BitVec 3) (f : SegFields) (s : State), rangeLegal pos len = true → s.ready = true →
    ∃ t, exec (.setseg pos len f) s = .next t ∧
      Accepted s t (updateEvents (segmentsOperand len f) pos s.bright) ∧ t.tracking = s.tracking ∧
      (Calm (186 + 54 * len.toNat) s →
        (∃ u, Host.Core.run core 62 t = .next u ∧
          u.tracking = ⟨0#8, 8#4, s.tracking.byteidx, .cmd1Framed, .stopped⟩) ∧
        (∀ k ≤ len.toNat, ∃ u, Host.Core.run core (118 + 54 * k) t = .next u ∧
          u.tracking = ⟨(segmentsOperand len f)[k]?.getD 0#8, if k < len.toNat then 0#4 else 8#4,
            BitVec.ofNat 3 k, .cmd1Framed, .byteSent⟩) ∧
        (∃ u, Host.Core.run core (124 + 54 * len.toNat) t = .next u ∧
          u.tracking = ⟨0#8, 8#4, len, .cmd2PayloadFramed, .stopped⟩) ∧
        ∃ u, Host.Core.run core (186 + 54 * len.toNat) t = .next u ∧
          u = { s with
            modeClk := .input
            modeDio := .input
            tracking := ⟨0#8, 8#4, len, .idle, .stopped⟩
            trace := s.trace ++ updateEvents (segmentsOperand len f) pos s.bright
            display := u.display
            script := s.script.drop (186 + 54 * len.toNat)
            out := ⟨true, none, none⟩ })

/-- The effect of a completed update at a working display, when it began in step and with both lines released: segment `k`
stands at position `pos + k`, every other position is unchanged, auto-increment is selected, the control nibble is
`BRIGHT`, and the display is in step for the next update (R38, informative; log entry 5). The updates that do not begin so
are those of UpdateOutOfStepLeavesTheDigitsUnknown. -/
def Obligations.UpdateWritesItsPositionsOnly : Prop :=
  ∀ (pos len : BitVec 3) (f : SegFields) (s : State), rangeLegal pos len = true → s.ready = true →
    s.display.inStep = true → s.modeClk = .input → s.modeDio = .input → Memory.wf s.display.digits → Calm (186 + 54 * len.toNat) s →
      ∃ t u, exec (.setseg pos len f) s = .next t ∧ Host.Core.run core (186 + 54 * len.toNat) t = .next u ∧
        (∀ k < len.toNat, Memory.read u.display.digits (pos.toNat + k) = (segmentsOperand len f)[k]?) ∧
        (∀ a, (a < pos.toNat ∨ pos.toNat + len.toNat ≤ a) →
          Memory.read u.display.digits a = Memory.read s.display.digits a) ∧
        u.display.inStep = true ∧ u.display.autoIncrement = true ∧ u.display.control = some s.bright

/-- An update that begins with a display out of step (after a direct operation of the line driver or the framer, a
transaction left open among them, or after a cut operation), or with a line driven low: its first transaction need not be
received as one (R147, R152), so nothing is known of the digits afterwards (U3, U4, U6); the control nibble is `BRIGHT` and
the display is in step again, since its third transaction and everything after is well formed (R152, R38; log entry 5). -/
def Obligations.UpdateOutOfStepLeavesTheDigitsUnknown : Prop :=
  ∀ (pos len : BitVec 3) (f : SegFields) (s : State), rangeLegal pos len = true → s.ready = true →
    (s.display.inStep = false ∨ s.modeClk = .output ∨ s.modeDio = .output) → Calm (186 + 54 * len.toNat) s →
      ∃ t u, exec (.setseg pos len f) s = .next t ∧ Host.Core.run core (186 + 54 * len.toNat) t = .next u ∧
        (∀ a, Memory.read u.display.digits a = none) ∧ u.display.autoIncrement = false ∧
        u.display.control = some s.bright ∧ u.display.inStep = true

/-- R92: the argument check of `setSegments`, condition by condition in its order; a rejected call emits no event and
changes no state; the response and sub-cause codes are those of R115; and the legal pairs are those of the range rule, 27
of them. -/
def Obligations.MisuseIsRejectedWithoutEffect : Prop :=
  (∀ (pos len : BitVec 3) (f : SegFields) (s : State) (c : MisuseCause), s.ready = true →
      (c = .posRange ∧ 5 < pos.toNat ∨ c = .lenRange ∧ ¬ 5 < pos.toNat ∧ 6 < len.toNat ∨
        c = .sumRange ∧ ¬ 5 < pos.toNat ∧ ¬ 6 < len.toNat ∧ 6 < pos.toNat + len.toNat) →
      exec (.setseg pos len f) s =
        .next { s with out := ⟨false, some ⟨.callerMisuse, c.code ++ len ++ pos⟩, none⟩ }) ∧
    (∀ pos len : BitVec 3, argumentCheck pos len = none ↔
      pos.toNat ≤ 5 ∧ len.toNat ≤ 6 ∧ pos.toNat + len.toNat ≤ 6) ∧
    (∀ pos len : BitVec 3, rangeLegal pos len = true ↔ argumentCheck pos len = none) ∧
    (RespCode.callerMisuse.code = 3#3 ∧ MisuseCause.posRange.code = 1#2 ∧ MisuseCause.lenRange.code = 2#2 ∧
      MisuseCause.sumRange.code = 3#2) ∧
    ((List.range 64).countP fun n =>
      rangeLegal (BitVec.ofNat 3 (n / 8)) (BitVec.ofNat 3 n)) = 27

/-- R96: the lookup answers with the ROM entry on `resp_data`, bit 7 zero, and writes no state: no event, no settle, no
mode-set. Entries 0 to 5 are those of R33, and entry `6 + k` is the parameter's entry `k` with bit 7 zero (R31, R34). -/
def Obligations.LookupAnswersTheRomEntry : Prop :=
  (∀ (d : BitVec 4) (s : State), s.ready = true →
      ∃ t, exec (.lookup d) s = .next t ∧ t = { s with out := t.out } ∧
        t.out.resp = some ⟨.ok, s.segrom d⟩ ∧ t.out.gpio = none ∧ (s.segrom d).getLsbD 7 = false) ∧
    ∀ s : State, s.segrom 0#4 = 0x3F#8 ∧ s.segrom 1#4 = 0x06#8 ∧ s.segrom 2#4 = 0x5B#8 ∧
      s.segrom 3#4 = 0x4F#8 ∧ s.segrom 4#4 = 0x66#8 ∧ s.segrom 5#4 = 0x6D#8 ∧
      ∀ (k : Nat) (h : k < 10), s.segrom (BitVec.ofNat 4 (6 + k)) = 0#1 ++ s.segromHigh[k]

/-- The ROM and the pin identifiers and the brightness are constant but for initialisation and reset (R15, R16, R36):
no step writes a ROM entry, and a step that loads or clears `PINID` or `BRIGHT` is an initialisation or a reset. -/
def Obligations.ConfigurationIsWrittenOnlyAtStartup : Prop :=
  ∀ s t : State, step s = .next t →
    t.segromHigh = s.segromHigh ∧ (∀ d, t.segrom d = s.segrom d) ∧ t.platform = s.platform ∧
      (s.inputs.rstN = true → s.life ≠ .uninit →
        t.bright = s.bright ∧ t.pinClk = s.pinClk ∧ t.pinDio = s.pinDio)

/-! ### The wire bytes -/

/-- Each wire byte format is the byte frame of its byte: on the byte port the three command bytes and any segment byte
are sent as a `writeByte` of that byte sends it (R53, R55 to R58, R64). That they are taken one at a time on a port of
their own is the model's (log entry 4), as is the display clause (log entry 5). -/
def Obligations.WireBytesAreSentAsFrames : Prop :=
  ∀ (i : Instr) (v : Byte) (s : State), s.ready = true →
    (i = .wireModeSelect ∧ v = 0x40#8 ∨
      (∃ p : BitVec 3, p.toNat ≤ 5 ∧ i = .wireAddressSelect p ∧ v = 0xC0#8 + p.zeroExtend 8) ∨
      (∃ b : BitVec 4, i = .wireDisplayControl b ∧ v = 0x80#8 + b.zeroExtend 8) ∨
      ∃ (aux : Bool) (pat : BitVec 7), i = .wireSegment aux pat ∧ v = BitVec.ofBool aux ++ pat) →
    ∃ t, exec i s = .next t ∧ exec i s = exec (.wrbyte v) s ∧ Accepted s t (byteFrameEvents v) ∧
      t.tracking = { s.tracking with shift := v, bitcnt := 0#4 } ∧
      (Calm 54 s → Host.Core.run core 54 t = .next { s with
        modeClk := .output
        modeDio := if v.getLsbD 7 then .input else .output
        tracking := { s.tracking with shift := 0#8, bitcnt := 8#4, txn := .byteSent }
        trace := s.trace ++ byteFrameEvents v
        display := .unknown
        script := s.script.drop 54
        out := ⟨true, none, none⟩ })

/-- "The values ppp = 6 and 7 are never emitted" (R56): an address-select byte with one of them is turned away as an
illegal command. That the answer is `ILLEGAL_CMD` is the model's choice (log entry 4). -/
def Obligations.AddressesSixAndSevenAreNotEmitted : Prop :=
  ∀ (p : BitVec 3) (s : State), 6 ≤ p.toNat → s.ready = true →
    exec (.wireAddressSelect p) s = .next { s with out := ⟨false, some ⟨.illegalCmd, 0#8⟩, none⟩ }

/-- Nothing can be said of the display after an operation of the framer or of the line driver that moves a line has
been issued directly, and it is out of step (U3, U6; log entry 5). -/
def Obligations.DirectFramingLeavesTheDisplayUnknown : Prop :=
  ∀ (i : Instr) (s t : State), s.ready = true → exec i s = .next t →
    (∃ l, i = .drvlow l) ∨ (∃ l, i = .release l) ∨ i = .start ∨ i = .stop ∨ (∃ v, i = .wrbyte v) ∨
        i = .wireModeSelect ∨ (∃ p : BitVec 3, p.toNat ≤ 5 ∧ i = .wireAddressSelect p) ∨
        (∃ b, i = .wireDisplayControl b) ∨ (∃ aux pat, i = .wireSegment aux pat) →
      t.display.inStep = false ∧ t.display.autoIncrement = false ∧ t.display.control = none ∧ ∀ a, Memory.read t.display.digits a = none

/-! ### One event -/

/-- R74, the success: `M(l, m)` at the head of `PEND` presents `PINID[l]` and `m` on the GPIO port, sets `MODE[l]`
whatever it was, is recorded, and leaves the other line alone; the operation completes when nothing is left. -/
def Obligations.ModeSetEventIsPerformedAndRecorded : Prop :=
  ∀ (s : State) (l : Line) (m : Mode) (ws : List Attached) (rest : List PendingEvent),
    s.life = .busy → s.pend = ⟨.modeSet l m, ws⟩ :: rest → Running s → s.inputs.gpioFail = false →
      ∃ t, step s = .next t ∧ t.mode l = m ∧ (∀ k, k ≠ l → t.mode k = s.mode k) ∧
        t.trace = s.trace ++ [.modeSet l m] ∧ t.pend = rest ∧
        t.life = (if rest = [] then .ready else .busy) ∧
        t.out = ⟨decide (rest = []), none, some ⟨s.pinId l, m⟩⟩ ∧
        t.tracking = trackThrough ws s.tracking ∧ t.bright = s.bright ∧ t.fcause = s.fcause ∧
        (∀ k, t.pinId k = s.pinId k) ∧ t.freeCount = s.freeCount

/-- R75: `S` at the head of `PEND` is recorded whatever the GPIO subsystem says; no mode changes and no call is
issued. -/
def Obligations.SettleEventIsRecorded : Prop :=
  ∀ (s : State) (ws : List Attached) (rest : List PendingEvent),
    s.life = .busy → s.pend = ⟨.settle, ws⟩ :: rest → Running s →
      ∃ t, step s = .next t ∧ (∀ k, t.mode k = s.mode k) ∧ t.trace = s.trace ++ [.settle] ∧ t.pend = rest ∧
        t.life = (if rest = [] then .ready else .busy) ∧ t.out = ⟨decide (rest = []), none, none⟩ ∧
        t.tracking = trackThrough ws s.tracking ∧ t.bright = s.bright ∧ t.fcause = s.fcause ∧
        (∀ k, t.pinId k = s.pinId k) ∧ t.freeCount = s.freeCount

/-- R114: a failed mode-set call. The event is not recorded, the rest is abandoned, `LIFE` is `FAULTED`, `FCAUSE` is 2,
`MODE[l]` holds its old value or `m`, and every other register, the other line and the tracking registers among them,
is as it was. -/
def Obligations.FailedModeSetIsFatal : Prop :=
  ∀ (s : State) (l : Line) (m : Mode) (ws : List Attached) (rest : List PendingEvent),
    s.life = .busy → s.pend = ⟨.modeSet l m, ws⟩ :: rest → Running s → s.inputs.gpioFail = true →
      ∃ t x, step s = .next t ∧ (x = s.mode l ∨ x = m) ∧ FaultCause.gpioError.code = 2#3 ∧
        t.out.gpio = some ⟨s.pinId l, m⟩ ∧ t.out.done = false ∧
        t = { s.setMode l x with
          pend := []
          life := .faulted
          fcause := .gpioError
          display := t.display
          script := s.script.tail
          out := t.out
          freeCount := t.freeCount }

/-- The tracking registers gate nothing (R17, R19, R22, R23): with other values in them a step performs the same event,
and leaves every other register the same. -/
def Obligations.TrackingRegistersGateNothing : Prop :=
  ∀ (s t : State) (k : Tracking), step s = .next t → ∃ k', step { s with tracking := k } = .next { t with tracking := k' }

/-- The block behaves the same whatever the display is, attached or not (R38, R117): a step differs in nothing but what
is known of the display. -/
def Obligations.DisplayHasNoInfluence : Prop :=
  ∀ (s t : State) (d : Display), step s = .next t → ∃ d', step { s with display := d } = .next { t with display := d' }

/-- The pads: a line in mode `OUTPUT` is pulled low, a line in mode `INPUT` is left to the pull-up and is high exactly
when nothing else pulls it low; the block drives no line high (R12, R14, D4). -/
def Obligations.PadsArePulledLowOrReleased : Prop :=
  ∀ (s : State) (l : Line) (pull : Bool),
    (s.mode l = .output →
      s.outputEnable l = true ∧ (s.mode l).code = 1#1 ∧ lineLevel (s.mode l) pull = false) ∧
      (s.mode l = .input → s.outputEnable l = false ∧ (s.mode l).code = 0#1 ∧ lineLevel (s.mode l) pull = pull)

/-! ### A running operation -/

/-- Whatever is pending is emitted in order, one event a step: after `k` calm steps of a running operation the trace has
grown by its first `k` events, the rest is still pending, and the modes are those the events give (R19, R46). -/
def Obligations.EventsAreEmittedInOrder : Prop :=
  ∀ (s : State) (k : Nat), s.life = .busy → k ≤ s.pend.length → Calm k s →
    ∃ t, Host.Core.run core k s = .next t ∧ t.trace = s.trace ++ (pendingEvents s).take k ∧
      t.pend = s.pend.drop k ∧ (∀ l, t.mode l = modeAfter l (s.mode l) ((pendingEvents s).take k)) ∧
      t.life = (if 0 < k ∧ k = s.pend.length then .ready else .busy) ∧ t.script = s.script.drop k ∧
      t.bright = s.bright ∧ t.fcause = s.fcause ∧ ∀ l, t.pinId l = s.pinId l

/-- An operation cut by termination leaves the first part of its events in the trace, cut after any event, and the modes
as those events left them (R118). -/
def Obligations.TerminationLeavesTheEmittedPart : Prop :=
  ∀ (s : State) (k : Nat) (x : PortInputs), s.life = .busy → k < s.pend.length → Calm k s →
    s.script[k]? = some x → x.rstN = true → x.term = true →
      ∃ t, Host.Core.run core (k + 1) s = .next t ∧ t.life = .terminated ∧ t.pend = [] ∧
        t.trace = s.trace ++ (pendingEvents s).take k ∧ t.fcause = s.fcause ∧
        (∀ l, t.mode l = modeAfter l (s.mode l) ((pendingEvents s).take k)) ∧ t.out = .quiet

/-- A mode-set that fails in the middle of an operation leaves every event before it in the trace, itself not, and none
after it (R114, R121). -/
def Obligations.FailureLeavesTheEmittedPart : Prop :=
  ∀ (s : State) (k : Nat) (x : PortInputs) (l : Line) (m : Mode), s.life = .busy → Calm k s →
    (pendingEvents s)[k]? = some (.modeSet l m) → s.script[k]? = some x →
    x.rstN = true → x.term = false → x.gpioFail = true →
      ∃ t, Host.Core.run core (k + 1) s = .next t ∧ t.life = .faulted ∧ t.fcause = .gpioError ∧ t.pend = [] ∧
        t.trace = s.trace ++ (pendingEvents s).take k ∧
        (t.mode l = modeAfter l (s.mode l) ((pendingEvents s).take k) ∨ t.mode l = m) ∧
        ∀ j, j ≠ l → t.mode j = modeAfter j (s.mode j) ((pendingEvents s).take k)

/-! ### Termination, reset, initialisation, the life cycle -/

/-- R118: termination, in any state: `LIFE` is `TERMINATED`, `PEND` is empty, every other register keeps its value, and
there is no response. What is known of the display is lost if an operation was running (U4, log entry 5). -/
def Obligations.TerminationKeepsEveryOtherRegister : Prop :=
  ∀ s : State, s.inputs.rstN = true → s.inputs.term = true →
    step s = .next { s with
      life := .terminated
      pend := []
      display := if s.pend = [] then s.display else .unknown
      script := s.script.tail
      out := .quiet }

/-- R124: errors do not nest: a faulted block takes no further step of its own, and a termination that arrives keeps
the earlier cause. A terminated block takes no further step either, answers nothing whatever is on its ports, and stays
terminated until reset (R118, R123, V10). -/
def Obligations.FaultedBlockTakesNoFurtherStep : Prop :=
  (∀ s : State, s.life = .faulted → s.inputs.rstN = true →
    (s.inputs.term = false → step s = .next { s with script := s.script.tail, out := .quiet }) ∧
      (s.inputs.term = true → ∃ t, step s = .next t ∧ t.life = .terminated ∧ t.fcause = s.fcause)) ∧
    ∀ s : State, s.life = .terminated → s.inputs.rstN = true →
      (s.inputs.term = false ∨ s.pend = [] → step s = .next { s with script := s.script.tail, out := .quiet }) ∧
        ∃ t, step s = .next t ∧ t.life = .terminated ∧ t.fcause = s.fcause ∧ t.tracking = s.tracking ∧
          t.trace = s.trace ∧ (∀ l, t.mode l = s.mode l) ∧ t.out = .quiet

/-- R140: hardware reset, in any state and in the middle of an operation too: the registers R140 gives a value have it,
no event is emitted, and the block is uninitialised. -/
def Obligations.HardwareResetRestoresTheIdleState : Prop :=
  ∀ s : State, s.inputs.rstN = false →
    ∃ t, step s = .next t ∧ t.modeClk = .input ∧ t.modeDio = .input ∧ t.pend = [] ∧ t.life = .uninit ∧
      t.fcause = .none ∧ t.tracking.seq = .idle ∧ t.tracking.txn = .idle ∧ t.trace = [] ∧ t.out = .quiet

/-- The reset values of R10 hold of the reset state. -/
def Obligations.ResetStateHasTheStatedValues : Prop :=
  State.reset.modeClk = .input ∧ State.reset.modeDio = .input ∧ State.reset.pend = [] ∧
    State.reset.life = .uninit ∧ State.reset.fcause = .none ∧ State.reset.tracking.seq = .idle ∧
    State.reset.tracking.txn = .idle ∧ State.reset.trace = [] ∧
    State.reset.segrom 0#4 = 0x3F#8 ∧ State.reset.segrom 1#4 = 0x06#8

/-- Initialisation (R142, R111 to R113, in the order of R120). That it samples the configuration ports of its own step,
which can differ from one initialisation to the next, is the model's choice (log entry 21). It checks in the order given, loads `PINID` and `BRIGHT` and makes the block `READY`, or
raises the error that is first; it emits no event and sets no mode. -/
def Obligations.InitialisationLoadsOrFails : Prop :=
  ∀ s : State, s.life = .uninit → Running s →
    let p := s.configPorts
    let bad := p.cfgValid = false ∨ ¬ p.cfgClkPin ∈ p.validPins ∨ ¬ p.cfgDioPin ∈ p.validPins ∨ p.cfgClkPin = p.cfgDioPin
    (¬ bad → p.gpioAvail = true → step s = .next { s with
        pinClk := p.cfgClkPin
        pinDio := p.cfgDioPin
        bright := p.cfgBrightness
        life := .ready
        script := s.script.tail
        out := .quiet }) ∧
      (bad → ∃ t, step s = .next t ∧ t.life = .faulted ∧ t.fcause = .configError ∧ t.pend = [] ∧
        t.trace = s.trace ∧ t.modeClk = s.modeClk ∧ t.modeDio = s.modeDio ∧ FaultCause.configError.code = 1#3) ∧
      (¬ bad → p.gpioAvail = false → ∃ t, step s = .next t ∧ t.life = .faulted ∧ t.fcause = .gpioError ∧ t.pend = [] ∧
        t.trace = s.trace ∧ t.modeClk = s.modeClk ∧ t.modeDio = s.modeDio)

/-- Only initialisation samples the configuration: what the ports show in any other step, as a standing level or in that
step alone, has no effect on it (R142). That the ports have standing levels which a step may override is the model's choice (log
entry 21). -/
def Obligations.LaterConfigurationHasNoEffect : Prop :=
  (∀ (s t : State) (p : PlatformInputs), s.life ≠ .uninit → step s = .next t →
      step { s with platform := p } = .next { t with platform := p }) ∧
    ∀ (s : State) (x : PortInputs) (rest : List PortInputs) (c : Option PlatformInputs), s.life ≠ .uninit →
      step { s with script := { x with config := c } :: rest } = step { s with script := x :: rest }

/-- R20: the transitions of `LIFE`, acceptance among them, and its codes. -/
def Obligations.LifeCycleTransitions : Prop :=
  (∀ s t : State, StateInv s → step s = .next t →
      (s.inputs.rstN = false → t.life = .uninit) ∧
      (s.inputs.rstN = true → s.inputs.term = true → t.life = .terminated) ∧
      (Running s →
        (s.life = .uninit → t.life = .ready ∨ t.life = .faulted) ∧
        (s.life = .ready → t.life = .ready ∨ t.life = .busy ∧ t.pend ≠ []) ∧
        (s.life = .busy → t.life = .ready ∧ t.pend = [] ∨ t.life = .busy ∧ t.pend ≠ [] ∨
          t.life = .faulted ∧ t.fcause = .gpioError) ∧
        (s.life = .faulted → t.life = .faulted) ∧ (s.life = .terminated → t.life = .terminated))) ∧
    (∀ (acts : List Action) (s : State), s.ready = true →
      (emitted acts ≠ [] → (accept acts s).life = .busy) ∧ (emitted acts = [] → (accept acts s).life = .ready)) ∧
    LifeState.uninit.code = 0#3 ∧ LifeState.ready.code = 1#3 ∧ LifeState.busy.code = 2#3 ∧
    LifeState.faulted.code = 3#3 ∧ LifeState.terminated.code = 4#3

/-- R21: `FCAUSE` is written once, when the fault is taken, and keeps its value until reset; its codes. -/
def Obligations.FaultCauseIsWrittenOnce : Prop :=
  (∀ s t : State, step s = .next t → s.inputs.rstN = true →
      t.fcause = s.fcause ∨ s.life ≠ .faulted ∧ t.life = .faulted ∧ t.fcause ≠ .none) ∧
    (∀ s t : State, StateInv s → step s = .next t → s.inputs.rstN = true → s.fcause ≠ .none → t.fcause = s.fcause) ∧
    (∀ s t : State, step s = .next t → s.inputs.rstN = false → t.fcause = .none) ∧
    FaultCause.none.code = 0#3 ∧ FaultCause.configError.code = 1#3 ∧ FaultCause.gpioError.code = 2#3

/-- The trace only grows: but for a reset, a step records at most one event, and only the head of `PEND`
(R19, R24). -/
def Obligations.TraceOnlyGrows : Prop :=
  ∀ s t : State, step s = .next t → s.inputs.rstN = true →
    t.trace = s.trace ∨ s.life = .busy ∧ ∃ p rest, s.pend = p :: rest ∧ t.trace = s.trace ++ [p.event]

/-- `MODE[l]` is written only by a mode-set event of that line and by reset (R11, R114). -/
def Obligations.OnlyModeSetsAndResetWriteModes : Prop :=
  ∀ (s t : State) (l : Line), step s = .next t → s.inputs.rstN = true → t.mode l ≠ s.mode l →
    s.life = .busy ∧ s.inputs.term = false ∧
      ∃ m ws rest, s.pend = ⟨.modeSet l m, ws⟩ :: rest ∧ t.mode l = m

/-- `SEQ` is left alone by every operation that is not `setSegments` (R22): accepting one leaves no write to `SEQ`
pending. -/
def Obligations.OnlySetSegmentsWritesSeq : Prop :=
  ∀ (i : Instr) (s t : State), exec i s = .next t → (∀ pos len f, i ≠ .setseg pos len f) → s.ready = true →
    t.tracking.seq = s.tracking.seq ∧ ∀ p ∈ t.pend, ∀ q, Attached.track (.setSeq q) ∉ p.writes

/-- The step of every state the invariant admits answers a next state: the model's one fault is not reached. -/
def Obligations.EveryStepOfASoundStateAnswers : Prop :=
  ∀ s : State, StateInv s → ∃ t, step s = .next t

/-! ### Invariants -/

/-- The invariant holds of the reset state. Its clauses `digitsInStep` and `bracketed` are about what the model knows of the
display, and that the display is in step at reset is the model's choice (log entry 5). -/
def Obligations.ResetStateIsSound : Prop := StateInv State.reset

/-- Every step keeps the invariant. Its clauses `digitsInStep` and `bracketed` are about what the model knows of the display
and are the model's reading of R84 and U3 (log entry 5). -/
def Obligations.EveryStepKeepsTheInvariant : Prop :=
  ∀ s t : State, StateInv s → step s = .next t → StateInv t

/-- Every step keeps the modes in agreement with the trace, as long as no mode-set call has failed (R11, R24, R114). -/
def Obligations.ModesAgreeWithTheTrace : Prop :=
  ModesFollowTrace State.reset ∧
    ∀ s t : State, StateInv s → ModesFollowTrace s → step s = .next t → ModesFollowTrace t
end

