-- ==== Sys2Proof/Laws/Memory.lean ====
section
/-! SUPPORT. The `DISP` memory: reads after writes, and that every operation keeps the canonical form. -/

namespace Sys2Proof.Machine

theorem Memory.read_insert_same (m : Memory) (a : Nat) (v : Byte) :
    Memory.read (Memory.insert m a v) a = some v := by
  induction m with
  | nil => simp [Memory.insert, Memory.read]
  | cons c rest ih =>
    unfold Memory.insert
    split
    · simp [Memory.read]
    · split
      · simp [Memory.read]
      · have : c.1 ≠ a := by omega
        simp [Memory.read, this, ih]

theorem Memory.read_insert_other (m : Memory) {a b : Nat} (v : Byte) (h : b ≠ a) :
    Memory.read (Memory.insert m a v) b = Memory.read m b := by
  induction m with
  | nil => simp [Memory.insert, Memory.read, h.symm]
  | cons c rest ih =>
    unfold Memory.insert
    split
    · simp [Memory.read, h.symm]
    · split
      · have : c.1 ≠ b := by omega
        simp [Memory.read, h.symm, this]
      · simp [Memory.read, ih]

theorem Memory.mem_insert {m : Memory} {a : Nat} {v : Byte} {c : Host.Cell} (h : c ∈ Memory.insert m a v) :
    c = (a, v) ∨ c ∈ m := by
  induction m with
  | nil => simpa [Memory.insert] using h
  | cons d rest ih =>
    unfold Memory.insert at h
    split at h
    · simpa using h
    · split at h
      · rcases List.mem_cons.mp h with h | h
        · exact .inl h
        · exact .inr (List.mem_cons_of_mem _ h)
      · rcases List.mem_cons.mp h with h | h
        · exact .inr (h ▸ List.mem_cons_self)
        · exact (ih h).imp_right (List.mem_cons_of_mem _)

theorem Memory.insert_wf {m : Memory} {a : Nat} (v : Byte) (ha : a < Config.numDigits) (h : Memory.wf m) :
    Memory.wf (Memory.insert m a v) := by
  refine ⟨?_, fun c hc => ?_⟩
  · obtain ⟨hs, -⟩ := h
    induction m with
    | nil => simp [Memory.insert]
    | cons d rest ih =>
      rw [List.pairwise_cons] at hs
      unfold Memory.insert
      split
      · rename_i hlt
        refine List.pairwise_cons.mpr ⟨fun c hc => ?_, List.pairwise_cons.mpr hs⟩
        rcases List.mem_cons.mp hc with rfl | hc
        · exact hlt
        · exact Nat.lt_trans hlt (hs.1 c hc)
      · split
        · rename_i _ heq
          exact List.pairwise_cons.mpr ⟨fun c hc => heq ▸ hs.1 c hc, hs.2⟩
        · refine List.pairwise_cons.mpr ⟨fun c hc => ?_, ih hs.2⟩
          rcases Memory.mem_insert hc with rfl | hc
          · show d.1 < a
            omega
          · exact hs.1 c hc
  · rcases Memory.mem_insert hc with rfl | hc
    · exact ha
    · exact h.2 c hc

/-- A write keeps the canonical form. -/
theorem Memory.write_wf {m : Memory} (a : Nat) (v : Byte) (h : Memory.wf m) : Memory.wf (Memory.write m a v) := by
  unfold Memory.write
  split
  · exact Memory.insert_wf v ‹_› h
  · exact h

/-- The write of a payload keeps the canonical form. -/
theorem Memory.writeList_wf {m : Memory} (a : Nat) (segs : List Byte) (h : Memory.wf m) :
    Memory.wf (Memory.writeList m a segs) := by
  induction segs generalizing m a with
  | nil => exact h
  | cons v rest ih => exact ih (a + 1) (Memory.write_wf a v h)

/-- Forgetting positions keeps the canonical form. -/
theorem Memory.forgetRange_wf {m : Memory} (a n : Nat) (h : Memory.wf m) : Memory.wf (Memory.forgetRange m a n) :=
  ⟨h.1.filter _, fun c hc => h.2 c (List.mem_filter.mp hc).1⟩

theorem Memory.read_write_same (m : Memory) {a : Nat} (v : Byte) (ha : a < Config.numDigits) :
    Memory.read (Memory.write m a v) a = some v := by
  simp [Memory.write, ha, Memory.read_insert_same]

theorem Memory.read_write_other (m : Memory) {a b : Nat} (v : Byte) (h : b ≠ a) :
    Memory.read (Memory.write m a v) b = Memory.read m b := by
  unfold Memory.write
  split
  · exact Memory.read_insert_other m v h
  · rfl

/-- A payload write leaves every position outside the payload alone. -/
theorem Memory.read_writeList_outside (m : Memory) (a : Nat) (segs : List Byte) {b : Nat}
    (h : b < a ∨ a + segs.length ≤ b) : Memory.read (Memory.writeList m a segs) b = Memory.read m b := by
  induction segs generalizing m a with
  | nil => rfl
  | cons v rest ih =>
    rw [List.length_cons] at h
    rw [Memory.writeList, ih _ _ (by omega), Memory.read_write_other _ _ (by omega)]

/-- Payload byte `k` stands at position `a + k` (R38). -/
theorem Memory.read_writeList_inside (m : Memory) (a : Nat) (segs : List Byte) {k : Nat} (hk : k < segs.length)
    (hr : a + segs.length ≤ Config.numDigits) : Memory.read (Memory.writeList m a segs) (a + k) = segs[k]? := by
  induction segs generalizing m a k with
  | nil => exact absurd hk (by simp)
  | cons v rest ih =>
    rw [List.length_cons] at hk hr
    rw [Memory.writeList]
    cases k with
    | zero =>
      show Memory.read (Memory.writeList (Memory.write m a v) (a + 1) rest) a = some v
      rw [Memory.read_writeList_outside _ _ _ (by omega), Memory.read_write_same _ _ (by omega)]
    | succ j =>
      rw [show a + (j + 1) = a + 1 + j by omega, ih _ _ (by omega) (by omega)]
      simp

/-- A position outside the forgotten range reads as before. -/
theorem Memory.read_forgetRange_outside (m : Memory) (a n : Nat) {b : Nat} (h : b < a ∨ a + n ≤ b) :
    Memory.read (Memory.forgetRange m a n) b = Memory.read m b := by
  induction m with
  | nil => rfl
  | cons c rest ih =>
    unfold Memory.forgetRange at ih ⊢
    by_cases hc : c.1 = b
    · have : (decide (c.1 < a) || decide (a + n ≤ c.1)) = true := by simpa [hc] using h
      rw [List.filter_cons, if_pos this]
      simp [Memory.read, hc]
    · rw [List.filter_cons]
      split <;> simp [Memory.read, hc, ih]

/-- What is known of the display keeps its memory in canonical form. -/
theorem DisplayWrite.apply_wf (w : DisplayWrite) {d : Display} (h : Memory.wf d.digits) :
    Memory.wf (w.apply d).digits := by
  have nil_wf : Memory.wf [] := ⟨List.Pairwise.nil, by simp⟩
  cases w with
  | forget => exact nil_wf
  | beginUpdate pos n idle =>
    simp only [DisplayWrite.apply]
    split
    · exact Memory.forgetRange_wf pos n h
    · exact nil_wf
  | selectAutoIncrement => exact h
  | writeDigits pos segs =>
    cases ha : d.autoIncrement <;> simp only [DisplayWrite.apply, ha, if_true, Bool.false_eq_true, if_false]
    · exact nil_wf
    · exact Memory.writeList_wf pos segs h
  | setControl b => exact h

end Sys2Proof.Machine
end

