-- ==== Sys2Proof/Laws/State.lean ====
section
/-! SUPPORT. One lemma for each field and each update of the state, so that no proof unfolds a record update. -/

namespace Sys2Proof.Machine

/-! ### The write of `MODE[l]` -/

@[simp] theorem State.setMode_mode_same (s : State) (l : Line) (m : Mode) : (s.setMode l m).mode l = m := by
  cases l <;> rfl

theorem State.setMode_mode_other (s : State) {l k : Line} (m : Mode) (h : k ≠ l) :
    (s.setMode l m).mode k = s.mode k := by
  cases l <;> cases k <;> first | rfl | exact absurd rfl h

@[simp] theorem State.setMode_pinId (s : State) (l : Line) (m : Mode) (k : Line) :
    (s.setMode l m).pinId k = s.pinId k := by
  cases l <;> cases k <;> rfl

@[simp] theorem State.setMode_pinClk (s : State) (l : Line) (m : Mode) : (s.setMode l m).pinClk = s.pinClk := by
  cases l <;> rfl

@[simp] theorem State.setMode_pinDio (s : State) (l : Line) (m : Mode) : (s.setMode l m).pinDio = s.pinDio := by
  cases l <;> rfl

@[simp] theorem State.setMode_bright (s : State) (l : Line) (m : Mode) : (s.setMode l m).bright = s.bright := by
  cases l <;> rfl

@[simp] theorem State.setMode_tracking (s : State) (l : Line) (m : Mode) : (s.setMode l m).tracking = s.tracking := by
  cases l <;> rfl

@[simp] theorem State.setMode_pend (s : State) (l : Line) (m : Mode) : (s.setMode l m).pend = s.pend := by
  cases l <;> rfl

@[simp] theorem State.setMode_life (s : State) (l : Line) (m : Mode) : (s.setMode l m).life = s.life := by
  cases l <;> rfl

@[simp] theorem State.setMode_fcause (s : State) (l : Line) (m : Mode) : (s.setMode l m).fcause = s.fcause := by
  cases l <;> rfl

@[simp] theorem State.setMode_trace (s : State) (l : Line) (m : Mode) : (s.setMode l m).trace = s.trace := by
  cases l <;> rfl

@[simp] theorem State.setMode_segromHigh (s : State) (l : Line) (m : Mode) : (s.setMode l m).segromHigh = s.segromHigh := by
  cases l <;> rfl

@[simp] theorem State.setMode_display (s : State) (l : Line) (m : Mode) : (s.setMode l m).display = s.display := by
  cases l <;> rfl

@[simp] theorem State.setMode_platform (s : State) (l : Line) (m : Mode) : (s.setMode l m).platform = s.platform := by
  cases l <;> rfl

@[simp] theorem State.setMode_script (s : State) (l : Line) (m : Mode) : (s.setMode l m).script = s.script := by
  cases l <;> rfl

@[simp] theorem State.setMode_out (s : State) (l : Line) (m : Mode) : (s.setMode l m).out = s.out := by
  cases l <;> rfl

@[simp] theorem State.setMode_freeCount (s : State) (l : Line) (m : Mode) : (s.setMode l m).freeCount = s.freeCount := by
  cases l <;> rfl

/-! ### The attached writes: they touch `tracking` and `display` only -/

@[simp] theorem Attached.apply_modeClk (w : Attached) (s : State) : (w.apply s).modeClk = s.modeClk := by
  cases w <;> rfl

@[simp] theorem Attached.apply_modeDio (w : Attached) (s : State) : (w.apply s).modeDio = s.modeDio := by
  cases w <;> rfl

@[simp] theorem Attached.apply_pinClk (w : Attached) (s : State) : (w.apply s).pinClk = s.pinClk := by
  cases w <;> rfl

@[simp] theorem Attached.apply_pinDio (w : Attached) (s : State) : (w.apply s).pinDio = s.pinDio := by
  cases w <;> rfl

@[simp] theorem Attached.apply_bright (w : Attached) (s : State) : (w.apply s).bright = s.bright := by
  cases w <;> rfl

@[simp] theorem Attached.apply_pend (w : Attached) (s : State) : (w.apply s).pend = s.pend := by
  cases w <;> rfl

@[simp] theorem Attached.apply_life (w : Attached) (s : State) : (w.apply s).life = s.life := by
  cases w <;> rfl

@[simp] theorem Attached.apply_fcause (w : Attached) (s : State) : (w.apply s).fcause = s.fcause := by
  cases w <;> rfl

@[simp] theorem Attached.apply_trace (w : Attached) (s : State) : (w.apply s).trace = s.trace := by
  cases w <;> rfl

@[simp] theorem Attached.apply_segromHigh (w : Attached) (s : State) : (w.apply s).segromHigh = s.segromHigh := by
  cases w <;> rfl

@[simp] theorem Attached.apply_platform (w : Attached) (s : State) : (w.apply s).platform = s.platform := by
  cases w <;> rfl

@[simp] theorem Attached.apply_script (w : Attached) (s : State) : (w.apply s).script = s.script := by
  cases w <;> rfl

@[simp] theorem Attached.apply_out (w : Attached) (s : State) : (w.apply s).out = s.out := by
  cases w <;> rfl

@[simp] theorem Attached.apply_freeCount (w : Attached) (s : State) : (w.apply s).freeCount = s.freeCount := by
  cases w <;> rfl

@[simp] theorem applyWrites_modeClk (ws : List Attached) (s : State) : (applyWrites ws s).modeClk = s.modeClk := by
  induction ws generalizing s with
  | nil => rfl
  | cons w rest ih => simp [applyWrites, ih]

@[simp] theorem applyWrites_modeDio (ws : List Attached) (s : State) : (applyWrites ws s).modeDio = s.modeDio := by
  induction ws generalizing s with
  | nil => rfl
  | cons w rest ih => simp [applyWrites, ih]

@[simp] theorem applyWrites_pinClk (ws : List Attached) (s : State) : (applyWrites ws s).pinClk = s.pinClk := by
  induction ws generalizing s with
  | nil => rfl
  | cons w rest ih => simp [applyWrites, ih]

@[simp] theorem applyWrites_pinDio (ws : List Attached) (s : State) : (applyWrites ws s).pinDio = s.pinDio := by
  induction ws generalizing s with
  | nil => rfl
  | cons w rest ih => simp [applyWrites, ih]

@[simp] theorem applyWrites_bright (ws : List Attached) (s : State) : (applyWrites ws s).bright = s.bright := by
  induction ws generalizing s with
  | nil => rfl
  | cons w rest ih => simp [applyWrites, ih]

@[simp] theorem applyWrites_pend (ws : List Attached) (s : State) : (applyWrites ws s).pend = s.pend := by
  induction ws generalizing s with
  | nil => rfl
  | cons w rest ih => simp [applyWrites, ih]

@[simp] theorem applyWrites_life (ws : List Attached) (s : State) : (applyWrites ws s).life = s.life := by
  induction ws generalizing s with
  | nil => rfl
  | cons w rest ih => simp [applyWrites, ih]

@[simp] theorem applyWrites_fcause (ws : List Attached) (s : State) : (applyWrites ws s).fcause = s.fcause := by
  induction ws generalizing s with
  | nil => rfl
  | cons w rest ih => simp [applyWrites, ih]

@[simp] theorem applyWrites_trace (ws : List Attached) (s : State) : (applyWrites ws s).trace = s.trace := by
  induction ws generalizing s with
  | nil => rfl
  | cons w rest ih => simp [applyWrites, ih]

@[simp] theorem applyWrites_segromHigh (ws : List Attached) (s : State) : (applyWrites ws s).segromHigh = s.segromHigh := by
  induction ws generalizing s with
  | nil => rfl
  | cons w rest ih => simp [applyWrites, ih]

@[simp] theorem applyWrites_platform (ws : List Attached) (s : State) : (applyWrites ws s).platform = s.platform := by
  induction ws generalizing s with
  | nil => rfl
  | cons w rest ih => simp [applyWrites, ih]

@[simp] theorem applyWrites_script (ws : List Attached) (s : State) : (applyWrites ws s).script = s.script := by
  induction ws generalizing s with
  | nil => rfl
  | cons w rest ih => simp [applyWrites, ih]

@[simp] theorem applyWrites_out (ws : List Attached) (s : State) : (applyWrites ws s).out = s.out := by
  induction ws generalizing s with
  | nil => rfl
  | cons w rest ih => simp [applyWrites, ih]

@[simp] theorem applyWrites_freeCount (ws : List Attached) (s : State) : (applyWrites ws s).freeCount = s.freeCount := by
  induction ws generalizing s with
  | nil => rfl
  | cons w rest ih => simp [applyWrites, ih]

@[simp] theorem applyWrites_mode (ws : List Attached) (s : State) (l : Line) :
    (applyWrites ws s).mode l = s.mode l := by
  cases l <;> simp [State.mode]

@[simp] theorem applyWrites_pinId (ws : List Attached) (s : State) (l : Line) :
    (applyWrites ws s).pinId l = s.pinId l := by
  cases l <;> simp [State.pinId]

/-! ### The inputs of a step are consumed -/

@[simp] theorem beginStep_script (s : State) : (beginStep s).script = s.script.tail := rfl

@[simp] theorem beginStep_out (s : State) : (beginStep s).out = .quiet := rfl

@[simp] theorem beginStep_mode (s : State) (l : Line) : (beginStep s).mode l = s.mode l := by
  cases l <;> rfl

@[simp] theorem beginStep_pinId (s : State) (l : Line) : (beginStep s).pinId l = s.pinId l := by
  cases l <;> rfl

@[simp] theorem beginStep_modeClk (s : State) : (beginStep s).modeClk = s.modeClk := rfl

@[simp] theorem beginStep_modeDio (s : State) : (beginStep s).modeDio = s.modeDio := rfl

@[simp] theorem beginStep_pinClk (s : State) : (beginStep s).pinClk = s.pinClk := rfl

@[simp] theorem beginStep_pinDio (s : State) : (beginStep s).pinDio = s.pinDio := rfl

@[simp] theorem beginStep_bright (s : State) : (beginStep s).bright = s.bright := rfl

@[simp] theorem beginStep_tracking (s : State) : (beginStep s).tracking = s.tracking := rfl

@[simp] theorem beginStep_pend (s : State) : (beginStep s).pend = s.pend := rfl

@[simp] theorem beginStep_life (s : State) : (beginStep s).life = s.life := rfl

@[simp] theorem beginStep_fcause (s : State) : (beginStep s).fcause = s.fcause := rfl

@[simp] theorem beginStep_trace (s : State) : (beginStep s).trace = s.trace := rfl

@[simp] theorem beginStep_segromHigh (s : State) : (beginStep s).segromHigh = s.segromHigh := rfl

@[simp] theorem beginStep_display (s : State) : (beginStep s).display = s.display := rfl

@[simp] theorem beginStep_platform (s : State) : (beginStep s).platform = s.platform := rfl

@[simp] theorem beginStep_freeCount (s : State) : (beginStep s).freeCount = s.freeCount := rfl

/-! ### A performed mode-set -/

@[simp] theorem issueModeSet_out (l : Line) (m : Mode) (s : State) :
    (issueModeSet l m s).out = { s.out with gpio := some ⟨s.pinId l, m⟩ } := rfl

@[simp] theorem issueModeSet_mode (l : Line) (m : Mode) (s : State) (k : Line) :
    (issueModeSet l m s).mode k = (s.setMode l m).mode k := by
  cases k <;> rfl

@[simp] theorem issueModeSet_pinId (l : Line) (m : Mode) (s : State) (k : Line) :
    (issueModeSet l m s).pinId k = s.pinId k := by
  cases l <;> cases k <;> rfl

@[simp] theorem issueModeSet_pinClk (l : Line) (m : Mode) (s : State) : (issueModeSet l m s).pinClk = s.pinClk := by
  cases l <;> rfl

@[simp] theorem issueModeSet_pinDio (l : Line) (m : Mode) (s : State) : (issueModeSet l m s).pinDio = s.pinDio := by
  cases l <;> rfl

@[simp] theorem issueModeSet_bright (l : Line) (m : Mode) (s : State) : (issueModeSet l m s).bright = s.bright := by
  cases l <;> rfl

@[simp] theorem issueModeSet_tracking (l : Line) (m : Mode) (s : State) : (issueModeSet l m s).tracking = s.tracking := by
  cases l <;> rfl

@[simp] theorem issueModeSet_pend (l : Line) (m : Mode) (s : State) : (issueModeSet l m s).pend = s.pend := by
  cases l <;> rfl

@[simp] theorem issueModeSet_life (l : Line) (m : Mode) (s : State) : (issueModeSet l m s).life = s.life := by
  cases l <;> rfl

@[simp] theorem issueModeSet_fcause (l : Line) (m : Mode) (s : State) : (issueModeSet l m s).fcause = s.fcause := by
  cases l <;> rfl

@[simp] theorem issueModeSet_trace (l : Line) (m : Mode) (s : State) : (issueModeSet l m s).trace = s.trace := by
  cases l <;> rfl

@[simp] theorem issueModeSet_segromHigh (l : Line) (m : Mode) (s : State) : (issueModeSet l m s).segromHigh = s.segromHigh := by
  cases l <;> rfl

@[simp] theorem issueModeSet_display (l : Line) (m : Mode) (s : State) : (issueModeSet l m s).display = s.display := by
  cases l <;> rfl

@[simp] theorem issueModeSet_platform (l : Line) (m : Mode) (s : State) : (issueModeSet l m s).platform = s.platform := by
  cases l <;> rfl

@[simp] theorem issueModeSet_script (l : Line) (m : Mode) (s : State) : (issueModeSet l m s).script = s.script := by
  cases l <;> rfl

@[simp] theorem issueModeSet_freeCount (l : Line) (m : Mode) (s : State) : (issueModeSet l m s).freeCount = s.freeCount := by
  cases l <;> rfl

/-! ### A finished event -/

@[simp] theorem finishEvent_trace (p : PendingEvent) (rest : List PendingEvent) (s : State) :
    (finishEvent p rest s).trace = s.trace ++ [p.event] := by
  simp [finishEvent]

@[simp] theorem finishEvent_pend (p : PendingEvent) (rest : List PendingEvent) (s : State) :
    (finishEvent p rest s).pend = rest := rfl

@[simp] theorem finishEvent_life (p : PendingEvent) (rest : List PendingEvent) (s : State) :
    (finishEvent p rest s).life = if rest.isEmpty then .ready else .busy := rfl

@[simp] theorem finishEvent_out (p : PendingEvent) (rest : List PendingEvent) (s : State) :
    (finishEvent p rest s).out = { s.out with done := rest.isEmpty } := rfl

@[simp] theorem finishEvent_mode (p : PendingEvent) (rest : List PendingEvent) (s : State) (l : Line) :
    (finishEvent p rest s).mode l = s.mode l := by
  cases l <;> simp [finishEvent, State.mode]

@[simp] theorem finishEvent_pinId (p : PendingEvent) (rest : List PendingEvent) (s : State) (l : Line) :
    (finishEvent p rest s).pinId l = s.pinId l := by
  cases l <;> simp [finishEvent, State.pinId]

@[simp] theorem finishEvent_modeClk (p : PendingEvent) (rest : List PendingEvent) (s : State) :
    (finishEvent p rest s).modeClk = s.modeClk := by
  simp [finishEvent]

@[simp] theorem finishEvent_modeDio (p : PendingEvent) (rest : List PendingEvent) (s : State) :
    (finishEvent p rest s).modeDio = s.modeDio := by
  simp [finishEvent]

@[simp] theorem finishEvent_pinClk (p : PendingEvent) (rest : List PendingEvent) (s : State) :
    (finishEvent p rest s).pinClk = s.pinClk := by
  simp [finishEvent]

@[simp] theorem finishEvent_pinDio (p : PendingEvent) (rest : List PendingEvent) (s : State) :
    (finishEvent p rest s).pinDio = s.pinDio := by
  simp [finishEvent]

@[simp] theorem finishEvent_bright (p : PendingEvent) (rest : List PendingEvent) (s : State) :
    (finishEvent p rest s).bright = s.bright := by
  simp [finishEvent]

@[simp] theorem finishEvent_fcause (p : PendingEvent) (rest : List PendingEvent) (s : State) :
    (finishEvent p rest s).fcause = s.fcause := by
  simp [finishEvent]

@[simp] theorem finishEvent_segromHigh (p : PendingEvent) (rest : List PendingEvent) (s : State) :
    (finishEvent p rest s).segromHigh = s.segromHigh := by
  simp [finishEvent]

@[simp] theorem finishEvent_platform (p : PendingEvent) (rest : List PendingEvent) (s : State) :
    (finishEvent p rest s).platform = s.platform := by
  simp [finishEvent]

@[simp] theorem finishEvent_script (p : PendingEvent) (rest : List PendingEvent) (s : State) :
    (finishEvent p rest s).script = s.script := by
  simp [finishEvent]

@[simp] theorem finishEvent_freeCount (p : PendingEvent) (rest : List PendingEvent) (s : State) :
    (finishEvent p rest s).freeCount = s.freeCount := by
  simp [finishEvent]

end Sys2Proof.Machine
end

