-- ==== Sys2Proof/Laws/Ops.lean ====
section
/-! SUPPORT. What each shared operation does, said once. -/

namespace Sys2Proof.Machine

open Sys2Proof.Safety

/-! ### Expansion (R19) -/

@[simp] theorem emitted_append (a b : List Action) : emitted (a ++ b) = emitted a ++ emitted b := by
  induction a with
  | nil => rfl
  | cons x rest ih => cases x <;> simp [emitted, ih]

/-- The events that are pending after a command is accepted are the events of its pseudocode. -/
@[simp] theorem compile_events (acts : List Action) :
    (compile acts).2.map PendingEvent.event = emitted acts := by
  induction acts with
  | nil => rfl
  | cons x rest ih => cases x <;> simp [compile, emitted, ih]

@[simp] theorem compile_length (acts : List Action) : (compile acts).2.length = (emitted acts).length := by
  rw [← compile_events, List.length_map]

/-! ### The attached writes -/

/-- The tracking registers after a list of attached writes. -/
theorem applyWrites_tracking (ws : List Attached) (s : State) :
    (applyWrites ws s).tracking = trackThrough ws s.tracking := by
  induction ws generalizing s with
  | nil => rfl
  | cons w rest ih => cases w <;> simp [applyWrites, trackThrough, Attached.apply, ih]

theorem applyWrites_display (ws : List Attached) (s : State) :
    (applyWrites ws s).display = displayThrough ws s.display := by
  induction ws generalizing s with
  | nil => rfl
  | cons w rest ih => cases w <;> simp [applyWrites, displayThrough, Attached.apply, ih]

/-- Digits are known only of a display in step, whatever is written (U3, U4, U6). -/
theorem DisplayWrite.apply_knownOnlyInStep (w : DisplayWrite) {d : Display} (h : knownOnlyInStep d) :
    knownOnlyInStep (w.apply d) := by
  cases w with
  | forget => exact fun _ => ⟨rfl, rfl⟩
  | beginUpdate pos n idle =>
    cases hs : d.inStep && idle
    · simp [DisplayWrite.apply, hs, knownOnlyInStep, Display.unknown]
    · simp_all [DisplayWrite.apply, knownOnlyInStep]
  | selectAutoIncrement => exact fun hs => ⟨(h hs).1, hs⟩
  | writeDigits pos segs =>
    cases ha : d.autoIncrement
    · simp [DisplayWrite.apply, ha, knownOnlyInStep]
    · exact fun hs => absurd ((h (by simpa [DisplayWrite.apply, ha] using hs)).2.symm.trans ha) (by decide)
  | setControl b => exact fun hs => absurd hs (by simp [DisplayWrite.apply])

theorem displayThrough_knownOnlyInStep (ws : List Attached) {d : Display} (h : knownOnlyInStep d) :
    knownOnlyInStep (displayThrough ws d) := by
  induction ws generalizing d with
  | nil => exact h
  | cons w rest ih =>
    cases w with
    | track _ => exact ih h
    | display w => exact ih (w.apply_knownOnlyInStep h)

/-- A list of attached writes is an update of two fields. -/
theorem applyWrites_eq (ws : List Attached) (s : State) :
    applyWrites ws s =
      { s with tracking := trackThrough ws s.tracking, display := displayThrough ws s.display } := by
  induction ws generalizing s with
  | nil => rfl
  | cons w rest ih => cases w <;> simp [applyWrites, trackThrough, displayThrough, Attached.apply, ih]

/-! ### The command port (R19, R96, R122) -/

theorem ready_iff (s : State) : s.ready = true ↔ s.life = .ready ∧ s.pend = [] := by
  simp [State.ready]

/-- What accepting a command with at least one event does. -/
theorem accept_ready {acts : List Action} {s : State} (h : s.ready = true) (he : emitted acts ≠ []) :
    accept acts s =
      { s with
        tracking := trackThrough (compile acts).1 s.tracking
        display := displayThrough (compile acts).1 s.display
        pend := (compile acts).2
        life := .busy
        out := ⟨false, some ⟨.ok, 0#8⟩, none⟩ } := by
  have hp : (compile acts).2.isEmpty = false := by
    cases hc : (compile acts).2 with
    | nil => exact absurd (by rw [← compile_events, hc]; rfl) he
    | cons _ _ => rfl
  simp [accept, h, hp, applyWrites_eq, PortOutputs.quiet]

theorem accept_not_ready {acts : List Action} {s : State} (h : s.ready = false) :
    accept acts s = { s with out := .quiet } := by
  simp [accept, h, notAccepted]

theorem answer_ready {v : Byte} {s : State} (h : s.ready = true) :
    answer v s = { s with out := ⟨true, some ⟨.ok, v⟩, none⟩ } := by
  simp [answer, h, PortOutputs.quiet]

theorem answer_not_ready {v : Byte} {s : State} (h : s.ready = false) :
    answer v s = { s with out := .quiet } := by
  simp [answer, h, notAccepted]

theorem reject_ready {c : RespCode} {v : Byte} {s : State} (h : s.ready = true) :
    reject c v s = { s with out := ⟨false, some ⟨c, v⟩, none⟩ } := by
  simp [reject, h, PortOutputs.quiet]

theorem reject_not_ready {c : RespCode} {v : Byte} {s : State} (h : s.ready = false) :
    reject c v s = { s with out := .quiet } := by
  simp [reject, h, notAccepted]

/-! ### One event (R19, R74, R75, R114) -/

/-- A finished event is an update of these fields. -/
theorem finishEvent_eq (p : PendingEvent) (rest : List PendingEvent) (s : State) :
    finishEvent p rest s =
      { s with
        trace := s.trace ++ [p.event]
        tracking := trackThrough p.writes s.tracking
        display := displayThrough p.writes s.display
        pend := rest
        life := if rest.isEmpty then .ready else .busy
        out := { s.out with done := rest.isEmpty } } := by
  simp [finishEvent, applyWrites_eq]

/-- Everything the step of a running operation can do. -/
theorem performHead_cases {fail : Bool} {s t : State} (h : performHead fail s = .next t) :
    ∃ p rest, s.pend = p :: rest ∧
      (p.event = .settle ∧ t = finishEvent p rest s ∨
        ∃ l m, p.event = .modeSet l m ∧
          (fail = false ∧ t = finishEvent p rest (issueModeSet l m s) ∨
            fail = true ∧ t = raiseGpioError l m s)) := by
  rcases hp : s.pend with _ | ⟨⟨e, ws⟩, rest⟩
  · simp [performHead, hp] at h
  · refine ⟨_, _, rfl, ?_⟩
    cases e with
    | settle =>
      simp only [performHead, hp, Host.Outcome.next.injEq] at h
      exact .inl ⟨rfl, h.symm⟩
    | modeSet l m =>
      refine .inr ⟨l, m, rfl, ?_⟩
      cases fail <;> simp only [performHead, hp, Host.Outcome.next.injEq, if_true, Bool.false_eq_true, if_false] at h
      · exact .inl ⟨rfl, h.symm⟩
      · exact .inr ⟨rfl, h.symm⟩

/-- The free value of a failed mode-set is one of the two the spec admits. -/
theorem raiseGpioError_mode (l : Line) (m : Mode) (s : State) :
    ∃ x, (x = s.mode l ∨ x = m) ∧ raiseGpioError l m s =
      { s.setMode l x with
        life := .faulted
        fcause := .gpioError
        pend := []
        display := displayAfterCut s
        out := { s.out with gpio := some ⟨s.pinId l, m⟩, resp := some ⟨.gpioError, 0#8⟩ }
        freeCount := s.freeCount + 1 } := by
  refine ⟨if Config.failedModeSetTakes s.freeCount then m else s.mode l, ?_, ?_⟩
  · split <;> simp
  · cases l <;> simp [raiseGpioError, raiseFatal, displayAfterCut, FaultCause.respCode, State.setMode]

/-! ### The display over a cut and a reset (U4, R151) -/

/-- A cut operation leaves nothing known of the display. -/
theorem displayAfterCut_of_pending {s : State} (h : s.pend ≠ []) : displayAfterCut s = .unknown := by
  cases hp : s.pend with
  | nil => exact absurd hp h
  | cons _ _ => simp [displayAfterCut, hp]

theorem displayAfterCut_of_idle {s : State} (h : s.pend = []) : displayAfterCut s = s.display := by
  simp [displayAfterCut, h]

/-- Placing a word drops a running operation, which is a cut for the display. -/
theorem presentWord_display (w : CodeWord) (s : State) : (presentWord w s).display = displayAfterCut s := by
  unfold presentWord
  split <;> rfl

/-- Reset does not bring a display into step. -/
theorem hardwareReset_inStep {s : State} (h : (hardwareReset s).display.inStep = true) :
    s.pend = [] ∧ s.display.inStep = true := by
  cases hp : s.pend with
  | nil => exact ⟨rfl, by simpa [hardwareReset, displayAfterCut, hp] using h⟩
  | cons _ _ => simp [hardwareReset, displayAfterCut, hp, Display.unknown] at h

/-! ### Initialisation (R142) -/

/-- The outcome of the startup checks, condition by condition. -/
theorem startupCheck_cases (p : PlatformInputs) :
    startupCheck p = none ∧ p.cfgValid = true ∧ p.cfgClkPin ∈ p.validPins ∧ p.cfgDioPin ∈ p.validPins ∧
        p.cfgClkPin ≠ p.cfgDioPin ∧ p.gpioAvail = true ∨
      startupCheck p = some .configError ∧
        (p.cfgValid = false ∨ p.cfgClkPin ∉ p.validPins ∨ p.cfgDioPin ∉ p.validPins ∨ p.cfgClkPin = p.cfgDioPin) ∨
      startupCheck p = some .gpioError ∧ p.cfgValid = true ∧ p.cfgClkPin ∈ p.validPins ∧
        p.cfgDioPin ∈ p.validPins ∧ p.cfgClkPin ≠ p.cfgDioPin ∧ p.gpioAvail = false := by
  unfold startupCheck PlatformInputs.pinValid
  by_cases h1 : p.cfgValid <;> by_cases h2 : p.cfgClkPin ∈ p.validPins <;>
    by_cases h3 : p.cfgDioPin ∈ p.validPins <;> by_cases h4 : p.cfgClkPin = p.cfgDioPin <;>
    by_cases h5 : p.gpioAvail <;> simp_all

/-- The configuration ports are at their standing levels unless the script gives others for the step. -/
theorem State.configPorts_of_none {s : State} (h : s.inputs.config = none) : s.configPorts = s.platform := by
  simp [State.configPorts, h]

theorem State.configPorts_of_some {s : State} {p : PlatformInputs} (h : s.inputs.config = some p) :
    s.configPorts = p := by
  simp [State.configPorts, h]

/-- Everything initialisation can do: load the configuration, or fail with the cause the startup checks give. -/
theorem initialise_cases (p : PlatformInputs) (s : State) :
    startupCheck p = none ∧ initialise p s = loadConfiguration p s ∨
      ∃ cause, startupCheck p = some cause ∧ initialise p s = raiseFatal cause s := by
  cases h : startupCheck p <;> simp [initialise, h]

end Sys2Proof.Machine
end

