-- ==== Sys2Proof/Laws/PerInstr.lean ====
section
/-! SUPPORT. Laws of the instructions as syntax, one lemma for each constructor. -/

namespace Sys2Proof.Laws

/-- The row of R60 of a host command. -/
def hostRowOf : Instr → Option HostRow
  | .drvlow _ => some rowDrvlow
  | .release _ => some rowRelease
  | .settle => some rowSettle
  | .start => some rowStart
  | .stop => some rowStop
  | .wrbyte _ => some rowWrbyte
  | .setseg _ _ _ => some rowSetseg
  | .lookup _ => some rowLookup
  | .wireModeSelect => none
  | .wireAddressSelect _ => none
  | .wireDisplayControl _ => none
  | .wireSegment _ _ => none

/-- The (pattern, mask) of a wire byte format in the opcode table (R55 to R58). -/
def wireRowOf : Instr → Option (Byte × Byte)
  | .drvlow _ => none
  | .release _ => none
  | .settle => none
  | .start => none
  | .stop => none
  | .wrbyte _ => none
  | .setseg _ _ _ => none
  | .lookup _ => none
  | .wireModeSelect => some (0x40#8, 0xFF#8)
  | .wireAddressSelect _ => some (0xC0#8, 0xF8#8)
  | .wireDisplayControl _ => some (0x80#8, 0xF0#8)
  | .wireSegment _ _ => some (0x00#8, 0x00#8)

/-- The encoding of an instruction selects the instruction's own row of the opcode table, with its reserved bits zero. -/
def SelectsOwnRow.Statement (i : Instr) : Prop :=
  match encode i with
  | .host w => ∃ r ∈ hostRowOf i, r ∈ hostTable ∧ r.selects w = true
  | .wire _ v => ∃ r ∈ wireRowOf i, v &&& r.2 = r.1

theorem SelectsOwnRow.drvlow (l : Line) : Statement (.drvlow l) :=
  ⟨rowDrvlow, rfl, by simp [hostTable], by cases l <;> decide⟩

theorem SelectsOwnRow.release (l : Line) : Statement (.release l) :=
  ⟨rowRelease, rfl, by simp [hostTable], by cases l <;> decide⟩

theorem SelectsOwnRow.settle : Statement .settle := ⟨rowSettle, rfl, by simp [hostTable], by decide⟩

theorem SelectsOwnRow.start : Statement .start := ⟨rowStart, rfl, by simp [hostTable], by decide⟩

theorem SelectsOwnRow.stop : Statement .stop := ⟨rowStop, rfl, by simp [hostTable], by decide⟩

theorem SelectsOwnRow.wrbyte (v : Byte) : Statement (.wrbyte v) := by
  refine ⟨rowWrbyte, rfl, by simp [hostTable], ?_⟩
  simp only [HostRow.selects, rowWrbyte, placeField, beq_iff_eq]
  ext i hi
  interval_cases i <;> simp

theorem SelectsOwnRow.setseg (pos len : BitVec 3) (f : SegFields) : Statement (.setseg pos len f) := by
  refine ⟨rowSetseg, rfl, by simp [hostTable], ?_⟩
  simp only [HostRow.selects, rowSetseg, setsegWord, placeField, beq_iff_eq]
  ext i hi
  interval_cases i <;> simp

theorem SelectsOwnRow.lookup (d : BitVec 4) : Statement (.lookup d) := by
  refine ⟨rowLookup, rfl, by simp [hostTable], ?_⟩
  simp only [HostRow.selects, rowLookup, placeField, beq_iff_eq]
  ext i hi
  interval_cases i <;> simp

theorem SelectsOwnRow.wireModeSelect : Statement .wireModeSelect := ⟨_, rfl, rfl⟩

theorem SelectsOwnRow.wireAddressSelect (p : BitVec 3) : Statement (.wireAddressSelect p) :=
  ⟨_, rfl, by revert p; decide⟩

theorem SelectsOwnRow.wireDisplayControl (b : BitVec 4) : Statement (.wireDisplayControl b) :=
  ⟨_, rfl, by revert b; decide⟩

theorem SelectsOwnRow.wireSegment (aux : Bool) (pat : BitVec 7) : Statement (.wireSegment aux pat) :=
  ⟨_, rfl, by simp⟩

end Sys2Proof.Laws
end

