-- ==== Sys2Proof/Laws/Step.lean ====
section
/-! SUPPORT. Everything a step can do, said once. -/

namespace Sys2Proof.Machine

open Sys2Proof.Safety

/-- Everything an instruction can do: it is not taken, it is rejected, it answers at once, or it is accepted with the
events of some pseudocode. -/
theorem exec_cases {i : Instr} {s t : State} (h : exec i s = .next t) :
    s.ready = false ∧ t = { s with out := .quiet } ∨
      s.ready = true ∧
        ((∃ c v, t = { s with out := ⟨false, some ⟨c, v⟩, none⟩ }) ∨
          (∃ v, t = { s with out := ⟨true, some ⟨.ok, v⟩, none⟩ }) ∨
          ∃ acts, t = accept acts s) := by
  cases hr : s.ready
  · refine .inl ⟨rfl, ?_⟩
    cases i <;>
      simp only [exec, execDrvlow, execRelease, execSettle, execStart, execStop, execWrbyte, execSetseg, execLookup,
        execWireModeSelect, execWireAddressSelect, execWireDisplayControl, execWireSegment, rejectIllegal] at h <;>
      (try split at h) <;>
      simp only [accept_not_ready hr, reject_not_ready hr, answer_not_ready hr, Host.Outcome.next.injEq] at h <;>
      exact h.symm
  · refine .inr ⟨rfl, ?_⟩
    cases i <;>
      simp only [exec, execDrvlow, execRelease, execSettle, execStart, execStop, execWrbyte, execSetseg, execLookup,
        execWireModeSelect, execWireAddressSelect, execWireDisplayControl, execWireSegment, rejectIllegal] at h <;>
      (try split at h) <;>
      simp only [reject_ready hr, answer_ready hr, Host.Outcome.next.injEq] at h <;>
      first
        | exact .inr (.inr ⟨_, h.symm⟩)
        | exact .inl ⟨_, _, h.symm⟩
        | exact .inr (.inl ⟨_, h.symm⟩)

/-- Every instruction answers a next state. -/
theorem exec_answers (i : Instr) (s : State) : ∃ t, exec i s = .next t := by
  cases i <;>
    simp only [exec, execDrvlow, execRelease, execSettle, execStart, execStop, execWrbyte, execSetseg, execLookup,
      execWireModeSelect, execWireAddressSelect, execWireDisplayControl, execWireSegment] <;>
    (try split) <;> exact ⟨_, rfl⟩

/-- Everything a step can do. -/
theorem step_cases {s t : State} (h : step s = .next t) :
    s.inputs.rstN = false ∧ t = hardwareReset (beginStep s) ∨
      s.inputs.rstN = true ∧
        (s.inputs.term = true ∧ t = terminate (beginStep s) ∨
          s.inputs.term = false ∧
            (s.life = .uninit ∧ t = initialise s.configPorts (beginStep s) ∨
              s.life = .ready ∧ s.inputs.cmd = none ∧ t = beginStep s ∨
              s.life = .ready ∧ (∃ w, s.inputs.cmd = some w ∧ runWord w (beginStep s) = .next t) ∨
              s.life = .busy ∧ performHead s.inputs.gpioFail (beginStep s) = .next t ∨
              s.life = .faulted ∧ t = beginStep s ∨
              s.life = .terminated ∧ t = beginStep s)) := by
  unfold step cycle at h
  cases hr : s.inputs.rstN
  · rw [if_pos hr] at h
    exact .inl ⟨rfl, (Host.Outcome.next.inj h).symm⟩
  · rw [if_neg (by simp [hr])] at h
    refine .inr ⟨rfl, ?_⟩
    cases ht : s.inputs.term
    · rw [if_neg (by simp [ht])] at h
      refine .inr ⟨rfl, ?_⟩
      cases hl : s.life <;> simp only [hl] at h
      · exact .inl ⟨rfl, (Host.Outcome.next.inj h).symm⟩
      · cases hc : s.inputs.cmd <;> simp only [hc] at h
        · exact .inr (.inl ⟨rfl, rfl, (Host.Outcome.next.inj h).symm⟩)
        · exact .inr (.inr (.inl ⟨rfl, _, rfl, h⟩))
      · exact .inr (.inr (.inr (.inl ⟨rfl, h⟩)))
      · exact .inr (.inr (.inr (.inr (.inl ⟨rfl, (Host.Outcome.next.inj h).symm⟩))))
      · exact .inr (.inr (.inr (.inr (.inr ⟨rfl, (Host.Outcome.next.inj h).symm⟩))))
    · rw [if_pos ht] at h
      exact .inl ⟨rfl, (Host.Outcome.next.inj h).symm⟩

/-- A command word does what an instruction does, or is rejected as illegal. -/
theorem runWord_cases {w : CodeWord} {s t : State} (h : runWord w s = .next t) :
    (∃ i, decode w = .ok i ∧ exec i s = .next t) ∨ ∃ e, decode w = .error e ∧ t = rejectIllegal s := by
  unfold runWord at h
  split at h
  · exact .inl ⟨_, ‹_›, h⟩
  · exact .inr ⟨_, ‹_›, (Host.Outcome.next.inj h).symm⟩

end Sys2Proof.Machine
end

