-- ==== Sys2Proof/Tests/Slice0.lean ====
section
/-! SUPPORT. The model's own tests: words from V7 of 95_test_vectors.md and from R55 to R58, the ill-formed terms each
check refuses, single steps with results from V1 to V10, and a witness for the hypotheses of every statement. -/

namespace Sys2Proof.Tests

open Sys2Proof.Machine Sys2Proof.Safety

/-! ### Decoding: a word written out from the spec for every constructor -/

/-- V7: `driveLow(DIO)`. -/
theorem test_decode_drvlow : decodeTableWord 64 0x1000000000000001 = some (.drvlow .dio) := by decide
/-- V7: `release(CLK)`. -/
theorem test_decode_release : decodeTableWord 64 0x2000000000000000 = some (.release .clk) := by decide
/-- V7. -/
theorem test_decode_settle : decodeTableWord 64 0x3000000000000000 = some .settle := by decide
/-- V7. -/
theorem test_decode_start : decodeTableWord 64 0x4000000000000000 = some .start := by decide
/-- V7. -/
theorem test_decode_stop : decodeTableWord 64 0x5000000000000000 = some .stop := by decide
/-- V7: `writeByte(0x40)`. -/
theorem test_decode_wrbyte : decodeTableWord 64 0x6000000000000040 = some (.wrbyte 0x40#8) := by decide
/-- V7: `setSegments([0x86,0x5B], 2)`, bit by bit: `OP` 0111, reserved 0, `POS` 010, reserved 0, `LEN` 010, reserved
0000, then the six bytes. -/
theorem test_decode_setseg :
    decodeTableWord 64
        0b0111001000100000000000000000000000000000000000000101101110000110 =
      some (.setseg 2#3 2#3 ⟨0x86#8, 0x5B#8, 0#8, 0#8, 0#8, 0#8⟩) := by decide
/-- V7, P1: `setSegments([0x3F,0x06,0x5B,0x4F,0x66,0x6D], 0)`. -/
theorem test_decode_setseg_full :
    decodeTableWord 64 0x70606D664F5B063F =
      some (.setseg 0#3 6#3 ⟨0x3F#8, 0x06#8, 0x5B#8, 0x4F#8, 0x66#8, 0x6D#8⟩) := by decide
/-- V7: `lookup(5)`. -/
theorem test_decode_lookup : decodeTableWord 64 0x8000000000000005 = some (.lookup 5#4) := by decide
/-- R55: `01000000`. -/
theorem test_decode_wire1 : decodeTableWord 8 0b01000000 = some .wireModeSelect := by decide
/-- R56: `11000ppp`, position 2 is `0xC2`. -/
theorem test_decode_wire2 : decodeTableWord 8 0b11000010 = some (.wireAddressSelect 2#3) := by decide
/-- R57: `1000bbbb`, brightness `0x0F` is `0x8F`. -/
theorem test_decode_wire3 : decodeTableWord 8 0b10001111 = some (.wireDisplayControl 0xF#4) := by decide
/-- R58: `pgfedcba`; `0xDB` is `0x5B | 0x80`. -/
theorem test_decode_segment : decodeTableWord 8 0b11011011 = some (.wireSegment true 0x5B#7) := by decide
/-- The opcode table's row of R58: a segment byte is told from a command byte by position, not by value. -/
theorem test_decode_segment_by_position :
    decode (.wire .payload 0x40#8) = .ok (.wireSegment false 0x40#7) := by rfl

/-- V7: the words of `ILLEGAL_CMD`, by the name of their rejection. -/
theorem test_decode_illegal_words :
    decodeHost 0x0000000000000000#64 = .error .reservedOperation ∧
      decodeHost 0x9000000000000000#64 = .error .reservedOperation ∧
      decodeHost 0x4000000000000001#64 = .error .reservedBits ∧
      decodeHost 0x1000000000000002#64 = .error .reservedBits ∧
      decodeHost 0x7800000000000000#64 = .error .reservedBits ∧
      decodeHost 0x6000000000000100#64 = .error .reservedBits := ⟨rfl, rfl, rfl, rfl, rfl, rfl⟩

/-- V7: the words of the encoder. -/
theorem test_encode_setseg :
    encode (.setseg 0#3 6#3 ⟨0x3F#8, 0x06#8, 0x5B#8, 0x4F#8, 0x66#8, 0x6D#8⟩) = .host 0x70606D664F5B063F#64 := by
  decide

/-! ### Well-formedness: the ill-formed terms each check refuses (V8) -/

theorem test_wf_refuses_position :
    (Instr.setseg 6#3 0#3 ⟨0#8, 0#8, 0#8, 0#8, 0#8, 0#8⟩).wf = false := by decide
theorem test_wf_refuses_length :
    (Instr.setseg 0#3 7#3 ⟨0#8, 0#8, 0#8, 0#8, 0#8, 0#8⟩).wf = false := by decide
theorem test_wf_refuses_sum :
    (Instr.setseg 5#3 2#3 ⟨0#8, 0#8, 0#8, 0#8, 0#8, 0#8⟩).wf = false := by decide
theorem test_wf_refuses_address : (Instr.wireAddressSelect 6#3).wf = false := by decide
theorem test_wf_accepts_boundaries :
    (Instr.setseg 5#3 1#3 ⟨0x71#8, 0#8, 0#8, 0#8, 0#8, 0#8⟩).wf = true ∧
      (Instr.setseg 0#3 6#3 ⟨0#8, 0#8, 0#8, 0#8, 0#8, 0#8⟩).wf = true ∧
      (Instr.wireAddressSelect 5#3).wf = true := by decide

/-! ### Small states -/

/-- The state an outcome leads to. -/
def after (o : Host.Outcome State Fault Refusal) : State :=
  match o with
  | .next s => s
  | .fault _ => .reset
  | .refused _ => .reset

/-- The block after the initialisation of the spec's programs, in the modes `c`, `d` (Part C of 95_test_vectors.md). -/
def readyIn (c d : Mode) : State :=
  { State.reset with
    life := .ready, pinClk := 23, pinDio := 24, bright := 0xF#4, modeClk := c, modeDio := d }

/-- The idle block. -/
def idle : State := readyIn .input .input

/-- The block with the events `ps` of a direct operation still to be emitted. -/
def busyWith (ps : List PendingEvent) : State := { idle with life := .busy, pend := ps, display := .unknown }

/-- A step's inputs with the mode-set call failing. -/
def failing : PortInputs := { PortInputs.quiet with gpioFail := true }

/-- A step's inputs with a termination. -/
def terminating : PortInputs := { PortInputs.quiet with term := true }

/-- A step's inputs with a reset. -/
def resetting : PortInputs := { PortInputs.quiet with rstN := false }

/-- A step's inputs with the configuration ports at `p` in that step. -/
def configured (p : PlatformInputs) : PortInputs := { PortInputs.quiet with config := some p }

/-- A step's inputs with a command. -/
def commanding (w : CodeWord) : PortInputs := { PortInputs.quiet with cmd := some w }

/-! ### Instructions, one step each -/

/-- R71: one event pending. -/
theorem test_drvlow_pending : pendingEvents (after (exec (.drvlow .dio) idle)) = [.modeSet .dio .output] := by decide
/-- V1, row 1: the modes after the event. -/
theorem test_drvlow_modes :
    let t := after (step (after (exec (.drvlow .dio) idle)))
    (t.modeClk, t.modeDio, t.trace, t.life) = (.input, .output, [.modeSet .dio .output], .ready) := by decide
/-- V1, row 3. -/
theorem test_release_modes :
    let t := after (step (after (exec (.release .clk) (readyIn .output .output))))
    (t.modeClk, t.modeDio, t.trace) = (.input, .output, [.modeSet .clk .input]) := by decide
/-- R16, R26: a mode-set presents `PINID[l]`. -/
theorem test_release_presents_pin :
    (after (step (after (exec (.release .dio) idle)))).out.gpio = some ⟨24, .input⟩ := by decide
/-- V1: `settle()` changes no mode. -/
theorem test_settle_trace :
    let t := after (step (after (exec .settle (readyIn .output .input))))
    (t.modeClk, t.modeDio, t.trace, t.out.done) = (.output, .input, [.settle], true) := by decide
/-- R81: two events, `start()` never touches `CLK`. -/
theorem test_start_pending :
    pendingEvents (after (exec .start idle)) = [.modeSet .dio .output, .settle] := by decide
/-- R19: `TXN <- STARTED` goes with the `S` of `start()`. -/
theorem test_start_txn_with_settle :
    (after (exec .start idle)).pend.map (fun p => p.writes) = [[], [.track (.setTxn .started)]] := by decide
/-- R82: the six events. -/
theorem test_stop_pending :
    pendingEvents (after (exec .stop idle)) =
      [.modeSet .dio .output, .settle, .modeSet .clk .input, .settle, .modeSet .dio .input, .settle] := by decide
/-- V3: the data mode-sets of `0x40`: bits 0,0,0,0,0,0,1,0 from bit 0 to bit 7. -/
theorem test_wrbyte_bits :
    ((pendingEvents (after (exec (.wrbyte 0x40#8) idle))).filter fun e =>
        decide (e = .modeSet .dio .output) || decide (e = .modeSet .dio .input)) =
      [.modeSet .dio .output, .modeSet .dio .output, .modeSet .dio .output, .modeSet .dio .output,
        .modeSet .dio .output, .modeSet .dio .output, .modeSet .dio .input, .modeSet .dio .output] := by decide
/-- R83, V4: the byte is loaded on acceptance. -/
theorem test_wrbyte_loads :
    let t := (after (exec (.wrbyte 0xA5#8) idle)).tracking
    (t.shift, t.bitcnt) = (0xA5#8, 0#4) := by decide
/-- V9, row 2: 294 events. -/
theorem test_setseg_count :
    (after (exec (.setseg 2#3 2#3 ⟨0x86#8, 0x5B#8, 0#8, 0#8, 0#8, 0#8⟩) idle)).pend.length = 294 := by
  decide +kernel
/-- P4: `(p, n) = (3, 4)` is rejected with `resp_code` 3 and `resp_data` `0xE3`, and the block stays ready. -/
theorem test_setseg_misuse :
    let t := after (exec (.setseg 3#3 4#3 ⟨1#8, 2#8, 3#8, 4#8, 0#8, 0#8⟩) idle)
    (t.out.resp, t.ready, t.trace) = (some ⟨.callerMisuse, 0xE3#8⟩, true, []) := by decide
/-- R96: `lookup(1)` is `0x06`, with no event. -/
theorem test_lookup_one :
    let t := after (exec (.lookup 1#4) idle)
    (t.out.resp, t.trace, t.pend.length) = (some ⟨.ok, 0x06#8⟩, [], 0) := by decide
/-- V6: `lookup(5)` is `0x6D`. -/
theorem test_lookup_five : (after (exec (.lookup 5#4) idle)).out.resp = some ⟨.ok, 0x6D#8⟩ := by decide
/-- V9: the first byte of an update is the frame of `0x40`. -/
theorem test_wire_mode_select :
    pendingEvents (after (exec .wireModeSelect idle)) = byteFrameEvents 0x40#8 := by decide
/-- V9: position 5 is the address byte `0xC5`. -/
theorem test_wire_address_select :
    pendingEvents (after (exec (.wireAddressSelect 5#3) idle)) = byteFrameEvents 0xC5#8 := by decide
/-- V9: brightness `0xA` is the control byte `0x8A`. -/
theorem test_wire_display_control :
    pendingEvents (after (exec (.wireDisplayControl 0xA#4) idle)) = byteFrameEvents 0x8A#8 := by decide
/-- R97: `0x5B | 0x80` is `0xDB`. -/
theorem test_wire_segment :
    pendingEvents (after (exec (.wireSegment true 0x5B#7) idle)) = byteFrameEvents (withAuxiliary 0x5B#8) := by decide

/-! ### The machine -/

/-- V10: a good configuration. -/
theorem test_init_good :
    let t := after (step State.reset)
    (t.life, t.pinClk, t.pinDio, t.bright, t.trace) = (.ready, 23, 24, 0xF#4, []) := by decide
/-- V10: `cfg_valid = 0` and `gpio_avail = 0` together give `FCAUSE` 1. -/
theorem test_init_order :
    let t := after (step { State.reset with
      platform := { defaultPlatform with cfgValid := false, gpioAvail := false } })
    (t.life, t.fcause) = (.faulted, .configError) := by decide
/-- V10: equal pin identifiers. -/
theorem test_init_equal_pins :
    (after (step { State.reset with platform := { defaultPlatform with cfgDioPin := 23 } })).fcause = .configError := by
  decide
/-- V10: the mode-set of `start()` fails from idle. -/
theorem test_gpio_failure :
    let t := after (step { after (exec .start idle) with script := [failing] })
    (t.trace, t.life, t.fcause, t.modeClk, t.tracking.txn, t.pend.length) =
      ([], .faulted, .gpioError, .input, .idle, 0) := by decide
/-- V10: termination while idle. -/
theorem test_termination_idle :
    let t := after (step { readyIn .output .input with script := [terminating] })
    (t.life, t.modeClk, t.modeDio, t.fcause) = (.terminated, .output, .input, .none) := by decide
/-- R147, U3: releasing the clock in an open transaction leaves the display out of step, and an update accepted then, with
both lines released, knows no digit and is not taken to begin in step. -/
theorem test_open_transaction_is_out_of_step :
    let s := { readyIn .output .input with
      tracking := ⟨0#8, 8#4, 0#3, .idle, .byteSent⟩, display := ⟨true, true, [(2, 0x5B#8)], none⟩ }
    let t := after (exec (.release .clk) s)
    (t.display, (after (exec (.setseg 2#3 1#3 ⟨1#8, 0#8, 0#8, 0#8, 0#8, 0#8⟩)
      { t with life := .ready, pend := [], modeClk := .input })).display) = (.unknown, .unknown) := by decide
/-- V10: a command to a faulted block is not accepted. -/
theorem test_faulted_takes_nothing :
    let t := after (step { idle with life := .faulted, script := [commanding (.host 0x4000000000000000#64)] })
    (t.life, t.out.resp) = (.faulted, none) := by decide
/-- R140: reset in the middle of an operation. -/
theorem test_reset_mid_operation :
    let t := after (step { busyWith [⟨.settle, []⟩] with script := [resetting], modeClk := .output })
    (t.life, t.modeClk, t.pend.length) = (.uninit, .input, 0) := by decide
/-- R123, R142: a startup fault is left by reset and a new initialisation, which samples the ports anew. -/
theorem test_second_initialisation_samples_anew :
    let s := { idle with life := .faulted, fcause := .configError,
                         platform := { defaultPlatform with cfgValid := false } }
    let t := after (Host.Core.run core 2 { s with script := [resetting, configured defaultPlatform] })
    (t.life, t.fcause, t.pinClk) = (.ready, .none, 23) := by decide
/-- A table row's word is what the first step after reset runs. -/
theorem test_placed_word :
    pendingEvents (after (step (State.reset.withFetchWord 64 0x5000000000000000))) = stopEvents := by decide

/-- U4: a word placed in the middle of an update that began in step leaves the display out of step. -/
theorem test_placed_word_cuts :
    let s := { after (exec (.setseg 0#3 1#3 ⟨1#8, 0#8, 0#8, 0#8, 0#8, 0#8⟩) idle) with modeDio := .input }
    (s.display.inStep, (s.withFetchWord 64 0x3000000000000000).display) = (true, .unknown) := by decide

/-! ### A witness for the hypotheses of each statement -/

/-- The step of every small state used below answers a next state. -/
theorem witness_step_answers :
    step idle = .next (after (step idle)) ∧
      step (busyWith [⟨.modeSet .clk .output, []⟩]) = .next (after (step (busyWith [⟨.modeSet .clk .output, []⟩]))) :=
  ⟨rfl, rfl⟩

/-- A running operation that meets the invariant: `StateInv` in EveryStepKeepsTheInvariant, LifeCycleTransitions,
FaultCauseIsWrittenOnce, EveryStepOfASoundStateAnswers, ModesAgreeWithTheTrace. -/
theorem witness_StateInv : StateInv (busyWith [⟨.modeSet .clk .output, []⟩]) :=
  ⟨by decide, by decide, by decide, by decide, by decide, fun _ _ => ⟨by decide, by decide, rfl⟩, fun _ => ⟨rfl, rfl⟩,
    fun h => absurd h (by decide)⟩

/-- A faulted state that meets the invariant, with a step that is no reset: the second clause of
FaultCauseIsWrittenOnce. -/
theorem witness_StateInv_faulted :
    StateInv { idle with life := .faulted, fcause := .gpioError } ∧
      ({ idle with life := .faulted, fcause := .gpioError } : State).inputs.rstN = true ∧
      step { idle with life := .faulted, fcause := .gpioError } =
        .next { idle with life := .faulted, fcause := .gpioError } :=
  ⟨⟨by decide, by decide, by decide, by decide, by decide, fun h => absurd rfl h, fun _ => ⟨rfl, rfl⟩,
    fun _ => ⟨fun l => by cases l <;> rfl, rfl⟩⟩, rfl, rfl⟩

theorem witness_ModesAgreeWithTheTrace : ModesFollowTrace (busyWith [⟨.modeSet .clk .output, []⟩]) :=
  fun _ l => by cases l <;> rfl

/-- A step in which a mode changes: OnlyModeSetsAndResetWriteModes, TraceOnlyGrows, TrackingRegistersGateNothing,
DisplayHasNoInfluence, LaterConfigurationHasNoEffect, ConfigurationIsWrittenOnlyAtStartup. -/
theorem witness_OnlyModeSetsAndResetWriteModes :
    let s := busyWith [⟨.modeSet .clk .output, []⟩]
    step s = .next (after (step s)) ∧ s.inputs.rstN = true ∧ s.life ≠ .uninit ∧
      (after (step s)).mode .clk ≠ s.mode .clk :=
  ⟨rfl, rfl, by decide, by decide⟩

theorem witness_HostWordSelectsItsRow :
    rowSetseg.selects 0x7220000000005B86#64 = true ∧ (0x9000000000000000#64).extractLsb' 60 4 = 9#4 ∧
      (0x0000000000000000#64).extractLsb' 60 4 = 0#4 ∧ rowLookup.selects 0x800000000000000F#64 = true := by decide

theorem witness_SetsegOperandsFromItsFields :
    let w := 0x70606D664F5B063F#64
    w.extractLsb' 60 4 = 7#4 ∧ w.getLsbD 59 = false ∧ w.getLsbD 55 = false ∧ w.extractLsb' 48 4 = 0#4 ∧
      5 < (w.extractLsb' 52 3).toNat ∧
      segmentsOperand 1#3 ⟨1#8, 2#8, 3#8, 4#8, 5#8, 6#8⟩ = segmentsOperand 1#3 ⟨1#8, 0#8, 0#8, 0#8, 0#8, 0#8⟩ ∧
      (0x7800000000000000#64).extractLsb' 60 4 = 7#4 ∧ (0x7800000000000000#64).getLsbD 59 = true := by decide

theorem witness_DecodedWordIsItsEncoding :
    decode (.host 0x7510000000000071#64) = .ok (.setseg 5#3 1#3 ⟨0x71#8, 0#8, 0#8, 0#8, 0#8, 0#8⟩) ∧
      decode (.wire .payload 0xC5#8) = .ok (.wireSegment true 0x45#7) := ⟨rfl, rfl⟩

theorem witness_CommandBytes : (5#3).toNat ≤ 5 := by decide

theorem witness_SetSegmentsIsWellBracketed : startInOrder .idle = true ∧ startInOrder .stopped = true := by decide

theorem witness_TransactionHasOneStartAndOneStop : [0x40#8] ≠ [] := by decide

theorem witness_AuxiliaryBitChangesOneEvent :
    [0x06#8, 0x5B#8, 0#8, 0#8, 0#8, 0x7F#8][0]? = some 0x06#8 ∧ (0x06#8).getLsbD 7 = false ∧
      [0x06#8, 0x5B#8, 0#8, 0#8, 0#8, 0x7F#8][5]? = some 0x7F#8 ∧ (0x7F#8).getLsbD 7 = false := by decide

theorem witness_StepRunsTheDecodedInstruction :
    let s := { idle with script := [commanding (.host 0x5000000000000000#64)] }
    s.life = .ready ∧ Running s ∧ s.inputs.cmd = some (.host 0x5000000000000000#64) ∧
      decode (.host 0x5000000000000000#64) = .ok .stop := ⟨rfl, by decide, rfl, rfl⟩

theorem witness_PlacedWordIsRunNext : decodeTableWord 8 0x40 = some .wireModeSelect := by decide

theorem witness_WordOfNoRowIsRejected :
    let s := { idle with script := [commanding (.host 0x4000000000000001#64)] }
    (∀ r ∈ hostTable, r.selects 0x4000000000000001#64 = false) ∧ s.ready = true ∧ Running s ∧
      s.inputs.cmd = some (.host 0x4000000000000001#64) := by decide

theorem witness_NoInstructionIsTakenUnlessReady :
    State.reset.ready = false ∧ (busyWith [⟨.settle, []⟩]).ready = false := by decide

theorem witness_RunningOperationIgnoresCommands : (busyWith [⟨.settle, []⟩]).life = .busy := rfl

/-- A ready block that will run undisturbed: the completion statements of the line driver, the framer, the segment API
and the wire bytes. -/
theorem witness_completion :
    idle.ready = true ∧ Calm 1 idle ∧ Calm 2 idle ∧ Calm 6 idle ∧ Calm 54 idle ∧ Running idle ∧
      (readyIn .output .output).ready = true ∧
      Calm 54 { idle with script := [commanding (.host 0x3000000000000000#64)] } := by decide

/-- A ready block whose next mode-set fails: the failure clauses of DriveLowSetsItsLineToOutput and
ReleaseSetsItsLineToInput. -/
theorem witness_failure_clauses :
    let s := { idle with script := [failing] }
    s.ready = true ∧ Running s ∧ s.inputs.gpioFail = true := by decide

theorem witness_RegistersTrackTheBitSlots :
    idle.ready = true ∧ Calm 48 idle ∧ exec (.wrbyte 0xA5#8) idle = .next (after (exec (.wrbyte 0xA5#8) idle)) :=
  ⟨by decide, by decide, rfl⟩

theorem witness_SetSegmentsCompletesTheUpdate :
    rangeLegal 0#3 6#3 = true ∧ rangeLegal 5#3 1#3 = true ∧ rangeLegal 5#3 0#3 = true ∧ idle.ready = true ∧
      Calm (186 + 54 * 6) idle ∧ 0 ≤ (6#3).toNat ∧ 6 ≤ (6#3).toNat ∧
      ¬ Calm 62 { idle with script := [failing] } ∧ ({ idle with script := [failing] } : State).ready = true := by
  decide

theorem witness_UpdateWritesItsPositionsOnly :
    rangeLegal 2#3 2#3 = true ∧ idle.ready = true ∧ idle.modeClk = .input ∧ idle.modeDio = .input ∧
      idle.display.inStep = true ∧
      Memory.wf ({ idle with display := ⟨true, true, [(0, 1#8), (3, 2#8)], none⟩ } : State).display.digits ∧
      Calm (186 + 54 * 2) idle := by decide

/-- A display out of step, the clock driven low, the data line driven low: UpdateOutOfStepLeavesTheDigitsUnknown. -/
theorem witness_UpdateOutOfStep :
    ({ idle with display := .unknown } : State).ready = true ∧
      ({ idle with display := .unknown } : State).display.inStep = false ∧
      rangeLegal 2#3 2#3 = true ∧ ({ idle with modeClk := .output } : State).ready = true ∧
      ({ idle with modeClk := .output } : State).modeClk = .output ∧
      ({ idle with modeDio := .output } : State).ready = true ∧
      ({ idle with modeDio := .output } : State).modeDio = .output ∧
      Calm (186 + 54 * 2) { idle with modeClk := .output } := by decide

theorem witness_LifeCycle_acceptance :
    idle.ready = true ∧ emitted startActions ≠ [] ∧ emitted [setSeq .idle] = [] := by decide

/-- One witness for each clause of MisuseIsRejectedWithoutEffect, at its boundary. -/
theorem witness_MisuseIsRejectedWithoutEffect :
    idle.ready = true ∧ 5 < (6#3).toNat ∧ (¬ 5 < (5#3).toNat ∧ 6 < (7#3).toNat) ∧
      (¬ 5 < (5#3).toNat ∧ ¬ 6 < (2#3).toNat ∧ 6 < (5#3).toNat + (2#3).toNat) ∧
      (¬ 5 < (1#3).toNat ∧ ¬ 6 < (6#3).toNat ∧ 6 < (1#3).toNat + (6#3).toNat) := by decide

/-- One witness for each form of WireBytesAreSentAsFrames; DirectFramingLeavesTheDisplayUnknown has the same forms. -/
theorem witness_WireBytesAreSentAsFrames :
    idle.ready = true ∧ Calm 54 idle ∧ (5#3).toNat ≤ 5 ∧ 0xC0#8 + (5#3).zeroExtend 8 = 0xC5#8 ∧
      0x80#8 + (0xF#4).zeroExtend 8 = 0x8F#8 ∧ (BitVec.ofBool true ++ 0x5B#7 : Byte) = 0xDB#8 := by decide

theorem witness_AddressesSixAndSevenAreNotEmitted : 6 ≤ (6#3).toNat ∧ 6 ≤ (7#3).toNat ∧ idle.ready = true := by decide

theorem witness_DirectFramingLeavesTheDisplayUnknown :
    idle.ready = true ∧ exec .stop idle = .next (after (exec .stop idle)) := ⟨by decide, rfl⟩

theorem witness_OnlySetSegmentsWritesSeq :
    exec .stop idle = .next (after (exec .stop idle)) ∧ (∀ pos len f, Instr.stop ≠ .setseg pos len f) ∧
      idle.ready = true := ⟨rfl, fun _ _ _ => Instr.noConfusion, by decide⟩

theorem witness_ModeSetEventIsPerformedAndRecorded :
    let s := busyWith [⟨.modeSet .clk .output, [.track .shiftBit]⟩, ⟨.settle, []⟩]
    s.life = .busy ∧ s.pend = [⟨.modeSet .clk .output, [.track .shiftBit]⟩, ⟨.settle, []⟩] ∧ Running s ∧
      s.inputs.gpioFail = false := by decide

theorem witness_SettleEventIsRecorded :
    (busyWith [⟨.settle, []⟩]).life = .busy ∧ (busyWith [⟨.settle, []⟩]).pend = [⟨.settle, []⟩] ∧
      Running (busyWith [⟨.settle, []⟩]) := by decide

theorem witness_FailedModeSetIsFatal :
    let s := { busyWith [⟨.modeSet .dio .output, []⟩] with script := [failing] }
    s.life = .busy ∧ s.pend = [⟨.modeSet .dio .output, []⟩] ∧ Running s ∧ s.inputs.gpioFail = true := by decide

theorem witness_EventsAreEmittedInOrder :
    let s := busyWith [⟨.modeSet .dio .output, []⟩, ⟨.settle, []⟩]
    s.life = .busy ∧ 0 ≤ s.pend.length ∧ 2 ≤ s.pend.length ∧ Calm 2 s := by decide

theorem witness_TerminationLeavesTheEmittedPart :
    let s := { busyWith [⟨.modeSet .dio .output, []⟩, ⟨.settle, []⟩] with script := [.quiet, terminating] }
    s.life = .busy ∧ 1 < s.pend.length ∧ Calm 1 s ∧ s.script[1]? = some terminating ∧ terminating.rstN = true ∧
      terminating.term = true := by decide

theorem witness_FailureLeavesTheEmittedPart :
    let s := { busyWith [⟨.settle, []⟩, ⟨.modeSet .clk .input, []⟩] with script := [.quiet, failing] }
    s.life = .busy ∧ Calm 1 s ∧ (pendingEvents s)[1]? = some (.modeSet .clk .input) ∧ s.script[1]? = some failing ∧
      failing.rstN = true ∧ failing.term = false ∧ failing.gpioFail = true := by decide

theorem witness_TerminationKeepsEveryOtherRegister :
    ({ idle with script := [terminating] } : State).inputs.rstN = true ∧
      ({ idle with script := [terminating] } : State).inputs.term = true := by decide

/-- The clauses of FaultedBlockTakesNoFurtherStep: a faulted and a terminated block, without and with a termination. -/
theorem witness_FaultedBlockTakesNoFurtherStep :
    let s := { idle with life := .faulted, fcause := .gpioError }
    s.life = .faulted ∧ s.inputs.rstN = true ∧ s.inputs.term = false ∧
      ({ s with script := [terminating] } : State).inputs.term = true ∧
      ({ s with life := .terminated } : State).inputs.rstN = true ∧ s.pend = [] := by decide

theorem witness_LaterConfigurationHasNoEffect : idle.life ≠ .uninit := by decide

theorem witness_HardwareResetRestoresTheIdleState :
    ({ busyWith [⟨.settle, []⟩] with script := [resetting] } : State).inputs.rstN = false := by decide

/-- The three clauses of InitialisationLoadsOrFails: good, each bad configuration, and no GPIO subsystem. -/
theorem witness_InitialisationLoadsOrFails :
    State.reset.life = .uninit ∧ Running State.reset ∧
      (defaultPlatform.cfgValid = true ∧ 23 ∈ defaultPlatform.validPins ∧ 24 ∈ defaultPlatform.validPins ∧
        defaultPlatform.cfgClkPin ≠ defaultPlatform.cfgDioPin ∧ defaultPlatform.gpioAvail = true) ∧
      ({ defaultPlatform with cfgValid := false } : PlatformInputs).cfgValid = false ∧
      ¬ ({ defaultPlatform with cfgClkPin := 7 } : PlatformInputs).cfgClkPin ∈ defaultPlatform.validPins ∧
      ({ defaultPlatform with gpioAvail := false } : PlatformInputs).gpioAvail = false := by decide

theorem witness_ShiftRegisterPresentsEachBit : 0 ≤ 8 ∧ 7 ≤ 8 ∧ 8 ≤ 8 := by decide

theorem witness_PadsArePulledLowOrReleased :
    (readyIn .output .input).mode .clk = .output ∧ (readyIn .output .input).mode .dio = .input := by decide

theorem witness_LookupAnswersTheRomEntry : idle.ready = true ∧ 0 < 10 ∧ 9 < 10 := by decide

end Sys2Proof.Tests
end

section
/-! PROOFS. What a piece of pseudocode writes, and how the tracking registers go through it. -/

namespace Sys2Proof.Proofs

open Sys2Proof.Machine Sys2Proof.Safety

/-! ### The writes of a piece of pseudocode (R19) -/

/-- All writes of a piece of pseudocode, in order, whatever event they are attached to. -/
def writesOf (acts : List Action) : List Attached :=
  match acts with
  | [] => []
  | .write w :: rest => w :: writesOf rest
  | .emit _ :: rest => writesOf rest

@[simp] theorem writesOf_nil : writesOf [] = [] := rfl

@[simp] theorem writesOf_write (w : Attached) (acts : List Action) :
    writesOf (.write w :: acts) = w :: writesOf acts := rfl

@[simp] theorem writesOf_emit (e : Event) (acts : List Action) : writesOf (.emit e :: acts) = writesOf acts := rfl

@[simp] theorem writesOf_append (a b : List Action) : writesOf (a ++ b) = writesOf a ++ writesOf b := by
  induction a with
  | nil => rfl
  | cons x rest ih => cases x <;> simp [ih]

/-- Expansion loses no write and makes none up: those before the first event, then those of each pending event. -/
theorem writesOf_eq_compile (acts : List Action) :
    writesOf acts = (compile acts).1 ++ (compile acts).2.flatMap PendingEvent.writes := by
  induction acts with
  | nil => rfl
  | cons x rest ih => cases x <;> simp [compile, ih]

@[simp] theorem trackThrough_append (a b : List Attached) (t : Tracking) :
    trackThrough (a ++ b) t = trackThrough b (trackThrough a t) := by
  induction a generalizing t with
  | nil => rfl
  | cons w rest ih => cases w <;> simp [trackThrough, ih]

@[simp] theorem displayThrough_append (a b : List Attached) (d : Display) :
    displayThrough (a ++ b) d = displayThrough b (displayThrough a d) := by
  induction a generalizing d with
  | nil => rfl
  | cons w rest ih => cases w <;> simp [displayThrough, ih]

theorem trackingAtEnd_eq (ps : List PendingEvent) (t : Tracking) :
    trackingAtEnd ps t = trackThrough (ps.flatMap PendingEvent.writes) t := by
  induction ps generalizing t with
  | nil => rfl
  | cons p rest ih => simp [trackingAtEnd, ih]

theorem displayAtEnd_eq (ps : List PendingEvent) (d : Display) :
    displayAtEnd ps d = displayThrough (ps.flatMap PendingEvent.writes) d := by
  induction ps generalizing d with
  | nil => rfl
  | cons p rest ih => simp [displayAtEnd, ih]

/-- When an accepted operation has completed, the tracking registers have gone through all its writes. -/
theorem trackingAtEnd_compile (acts : List Action) (t : Tracking) :
    trackingAtEnd (compile acts).2 (trackThrough (compile acts).1 t) = trackThrough (writesOf acts) t := by
  rw [trackingAtEnd_eq, writesOf_eq_compile, trackThrough_append]

theorem displayAtEnd_compile (acts : List Action) (d : Display) :
    displayAtEnd (compile acts).2 (displayThrough (compile acts).1 d) = displayThrough (writesOf acts) d := by
  rw [displayAtEnd_eq, writesOf_eq_compile, displayThrough_append]

theorem displayThrough_wf (ws : List Attached) {d : Display} (h : Memory.wf d.digits) :
    Memory.wf (displayThrough ws d).digits := by
  induction ws generalizing d with
  | nil => exact h
  | cons w rest ih =>
    cases w with
    | track _ => exact ih h
    | display w => exact ih (w.apply_wf h)

/-! ### The writes of the framer and the line driver -/

/-- A write that is neither to `SEQ` nor at the display: the framer makes no other. -/
def isFramerWrite : Attached → Bool
  | .track (.setSeq _) => false
  | .track _ => true
  | .display _ => false

/-- Writes without one to `SEQ` leave it as it is (R22). -/
theorem trackThrough_seq {ws : List Attached} (h : ∀ q, Attached.track (.setSeq q) ∉ ws) (t : Tracking) :
    (trackThrough ws t).seq = t.seq := by
  induction ws generalizing t with
  | nil => rfl
  | cons w rest ih =>
    have hrest : ∀ q, Attached.track (.setSeq q) ∉ rest := fun q hq => h q (List.mem_cons_of_mem _ hq)
    cases w with
    | display _ => exact ih hrest t
    | track w =>
      rw [trackThrough, ih hrest]
      cases w with
      | setSeq q => exact absurd List.mem_cons_self (h q)
      | _ => rfl

/-- The framer's writes say nothing about the display. -/
theorem displayThrough_framer {ws : List Attached} (h : ws.all isFramerWrite = true) (d : Display) :
    displayThrough ws d = d := by
  induction ws with
  | nil => rfl
  | cons w rest ih =>
    rw [List.all_cons, Bool.and_eq_true] at h
    cases w with
    | track _ => exact ih h.2
    | display _ => exact absurd h.1 (by simp [isFramerWrite])

/-- The operations of the framer and of the line driver that move a line, as action lists. -/
inductive LineOperation : List Action → Prop where
  | driveLow (l : Line) : LineOperation (driveLowActions l)
  | release (l : Line) : LineOperation (releaseActions l)
  | start : LineOperation startActions
  | stop : LineOperation stopActions
  | writeByte (v : Byte) : LineOperation (writeByteActions v)

theorem bitLoop_framerWrites (v : Byte) (i n : Nat) : (writesOf (bitLoop v i n)).all isFramerWrite = true := by
  induction n generalizing i with
  | zero => rfl
  | succ n ih => simp [bitLoop, bitSlot, pair, isFramerWrite, ih]

theorem LineOperation.framerWrites {acts : List Action} (h : LineOperation acts) :
    (writesOf acts).all isFramerWrite = true := by
  cases h with
  | driveLow l => rfl
  | release l => rfl
  | start => rfl
  | stop => rfl
  | writeByte v =>
    simp only [writeByteActions, writesOf_append, List.all_append, bitLoop_framerWrites]
    rfl

/-! ### The tracking registers through a piece of pseudocode (R17, R22) -/

/-- The tracking registers are in range at each event of `acts`, which start from `t`, and after its last write they
satisfy `Q`. -/
def inRangeThrough (acts : List Action) (Q : Tracking → Prop) (t : Tracking) : Prop :=
  match acts with
  | [] => Q t
  | .emit _ :: rest => trackingInRange t ∧ inRangeThrough rest Q t
  | .write w :: rest => inRangeThrough rest Q (trackThrough [w] t)

theorem inRangeThrough_append (a b : List Action) (Q : Tracking → Prop) (t : Tracking) :
    inRangeThrough (a ++ b) Q t ↔ inRangeThrough a (inRangeThrough b Q) t := by
  induction a generalizing t with
  | nil => rfl
  | cons x rest ih => cases x <;> simp [inRangeThrough, ih]

theorem inRangeThrough_mono {acts : List Action} {Q R : Tracking → Prop} {t : Tracking} (hQR : ∀ t, Q t → R t)
    (h : inRangeThrough acts Q t) : inRangeThrough acts R t := by
  induction acts generalizing t with
  | nil => exact hQR t h
  | cons x rest ih =>
    cases x with
    | emit e => exact ⟨h.1, ih h.2⟩
    | write w => exact ih h

/-- The invariant's clause about an accepted operation, read off its pseudocode. -/
theorem trackingSound_compile (acts : List Action) (t : Tracking) :
    trackingSound (compile acts).2 (trackThrough (compile acts).1 t) ↔
      inRangeThrough acts (fun t => trackingInRange t ∧ t.seq = .idle) t := by
  induction acts generalizing t with
  | nil => rfl
  | cons x rest ih =>
    cases x with
    | emit e => exact and_congr_right fun _ => ih t
    | write w => cases w <;> exact ih _

/-- From registers with `P`, `acts` keeps them in range and ends with `Q`. -/
def TrackSpec (P : Tracking → Prop) (acts : List Action) (Q : Tracking → Prop) : Prop :=
  ∀ t, P t → inRangeThrough acts Q t

theorem TrackSpec.append {P Q R : Tracking → Prop} {a b : List Action} (ha : TrackSpec P a Q)
    (hb : TrackSpec Q b R) : TrackSpec P (a ++ b) R :=
  fun t ht => (inRangeThrough_append a b R t).mpr (inRangeThrough_mono hb (ha t ht))

theorem TrackSpec.write {P Q : Tracking → Prop} (w : Attached) (h : ∀ t, P t → Q (trackThrough [w] t)) :
    TrackSpec P [.write w] Q := h

theorem TrackSpec.emit {P : Tracking → Prop} (e : Event) (h : ∀ t, P t → trackingInRange t) :
    TrackSpec P [.emit e] P := fun t ht => ⟨h t ht, ht⟩

theorem TrackSpec.pair {P : Tracking → Prop} (l : Line) (m : Mode) (h : ∀ t, P t → trackingInRange t) :
    TrackSpec P (pair l m) P := (TrackSpec.emit _ h).append (TrackSpec.emit _ h)

/-- Between the operations of an update: the registers are in range, `BYTEIDX` = `b` and `SEQ` = `q`. -/
structure Standing (b : Nat) (q : SeqState) (t : Tracking) : Prop where
  inRange : trackingInRange t
  byteidx : t.byteidx.toNat = b
  seq : t.seq = q

/-- Inside a byte, with `n` bits sent. -/
structure InByte (b : Nat) (q : SeqState) (n : Nat) (t : Tracking) : Prop extends Standing b q t where
  bitcnt : t.bitcnt.toNat = n

section
variable {b : Nat} {q : SeqState}

theorem TrackSpec.setTxn (x : TxnState) : TrackSpec (Standing b q) [setTxn x] (Standing b q) :=
  TrackSpec.write _ fun _ h => ⟨h.inRange, h.byteidx, h.seq⟩

theorem TrackSpec.bitLoop (v : Byte) (i : Nat) {k n : Nat} (hn : k + n ≤ 8) :
    TrackSpec (InByte b q k) (bitLoop v i n) (InByte b q (k + n)) := by
  induction n generalizing i k with
  | zero => exact fun t ht => ht
  | succ n ih =>
    have inRange : ∀ t, InByte b q k t → trackingInRange t := fun t ht => ht.inRange
    have slot : TrackSpec (InByte b q k) (bitSlot (v.getLsbD i)) (InByte b q k) :=
      ((TrackSpec.pair _ _ inRange).append (TrackSpec.pair _ _ inRange)).append (TrackSpec.pair _ _ inRange)
    have shift : TrackSpec (InByte b q k) [.write (.track .shiftBit)] (InByte b q (k + 1)) := by
      refine TrackSpec.write _ fun t ⟨⟨⟨_, hbyteidx, hseq⟩, hb, hq⟩, hk⟩ => ?_
      have count : (t.bitcnt + 1#4).toNat = k + 1 := by bv_omega
      exact ⟨⟨⟨show (t.bitcnt + 1#4).toNat ≤ 8 by omega, hbyteidx, hseq⟩, hb, hq⟩, count⟩
    rw [show k + (n + 1) = k + 1 + n by omega] at hn ⊢
    exact (slot.append shift).append (ih (i + 1) hn)

/-- Every operation of the framer and the line driver keeps the registers in range, and `BYTEIDX` and `SEQ` as they
are. -/
theorem LineOperation.trackSpec {acts : List Action} (h : LineOperation acts) :
    TrackSpec (Standing b q) acts (Standing b q) := by
  have inRange : ∀ t, Standing b q t → trackingInRange t := fun t ht => ht.inRange
  cases h with
  | driveLow l => exact TrackSpec.emit _ inRange
  | release l => exact TrackSpec.emit _ inRange
  | start => exact (TrackSpec.pair _ _ inRange).append (TrackSpec.setTxn _)
  | stop =>
    exact (((TrackSpec.pair _ _ inRange).append (TrackSpec.pair _ _ inRange)).append
      (TrackSpec.pair _ _ inRange)).append (TrackSpec.setTxn _)
  | writeByte v =>
    have load : TrackSpec (Standing b q) [.write (.track (.loadByte v))] (InByte b q 0) :=
      TrackSpec.write _ fun t ⟨⟨_, hbyteidx, hseq⟩, hb, hq⟩ => ⟨⟨⟨Nat.zero_le 8, hbyteidx, hseq⟩, hb, hq⟩, rfl⟩
    have inRange8 : ∀ t, InByte b q (0 + 8) t → trackingInRange t := fun t ht => ht.inRange
    have ack : TrackSpec (InByte b q (0 + 8)) ackSlot (InByte b q (0 + 8)) :=
      ((TrackSpec.pair _ _ inRange8).append (TrackSpec.pair _ _ inRange8)).append (TrackSpec.pair _ _ inRange8)
    have close : TrackSpec (InByte b q (0 + 8)) [Machine.setTxn .byteSent] (Standing b q) :=
      fun t ht => TrackSpec.setTxn _ t ht.toStanding
    exact ((load.append (TrackSpec.bitLoop v 0 (Nat.le_refl 8))).append ack).append close

theorem TrackSpec.payload (segs : List Byte) (h : b + segs.length ≤ Config.numDigits) :
    TrackSpec (Standing b q) (payloadActions segs) (Standing (b + segs.length) q) := by
  induction segs generalizing b with
  | nil => exact fun t ht => ht
  | cons v rest ih =>
    rw [List.length_cons, show b + (rest.length + 1) = b + 1 + rest.length by omega] at h ⊢
    have next : TrackSpec (Standing b q) [.write (.track .nextByteIdx)] (Standing (b + 1) q) := by
      refine TrackSpec.write _ fun t ⟨⟨hbitcnt, _, hseq⟩, hb, hq⟩ => ?_
      have hle : b + 1 ≤ 6 := Nat.le_trans (Nat.le_add_right _ _) h
      have count : (t.byteidx + 1#3).toNat = b + 1 := by bv_omega
      exact ⟨⟨hbitcnt, show (t.byteidx + 1#3).toNat ≤ 6 by omega, hseq⟩, count, hq⟩
    exact ((LineOperation.writeByte v).trackSpec.append next).append (ih h)

/-- A transaction of one byte (R93, R95). -/
theorem TrackSpec.oneByteTransaction (v : Byte) :
    TrackSpec (Standing b q) (startActions ++ writeByteActions v ++ stopActions) (Standing b q) :=
  (LineOperation.start.trackSpec.append (LineOperation.writeByte v).trackSpec).append LineOperation.stop.trackSpec

/-- An update keeps the registers in range and ends with `SEQ` = `IDLE` (R22, R91). -/
theorem TrackSpec.setSegments (bright : BitVec 4) (linesIdle : Bool) (pos : BitVec 3) {segs : List Byte}
    (h : segs.length ≤ Config.numDigits) :
    TrackSpec (Standing b q) (setSegmentsActions bright linesIdle pos segs) (Standing segs.length .idle) := by
  have begins : TrackSpec (Standing b q) [.write (.display (.beginUpdate pos.toNat segs.length linesIdle))]
      (Standing b q) := TrackSpec.write _ fun _ ht => ht
  have framed1 : TrackSpec (Standing b q) [setSeq .cmd1Framed, .write (.display .selectAutoIncrement)]
      (Standing b .cmd1Framed) := fun t ⟨⟨hbitcnt, hbyteidx, _⟩, hb, _⟩ => ⟨⟨hbitcnt, hbyteidx, nofun⟩, hb, rfl⟩
  have cleared : TrackSpec (Standing b .cmd1Framed) [.write (.track .clearByteIdx)] (Standing 0 .cmd1Framed) :=
    TrackSpec.write _ fun t ⟨⟨hbitcnt, _, hseq⟩, _, hq⟩ => ⟨⟨hbitcnt, Nat.zero_le 6, hseq⟩, rfl, hq⟩
  have payload : TrackSpec (Standing 0 .cmd1Framed) (payloadActions segs) (Standing segs.length .cmd1Framed) := by
    have := TrackSpec.payload (b := 0) (q := .cmd1Framed) segs (by omega)
    rwa [Nat.zero_add] at this
  have transaction2 : TrackSpec (Standing b .cmd1Framed) (transaction2 pos segs) (Standing segs.length .cmd1Framed) :=
    (((LineOperation.start.trackSpec.append (LineOperation.writeByte _).trackSpec).append cleared).append
      payload).append LineOperation.stop.trackSpec
  have framed2 : TrackSpec (Standing segs.length .cmd1Framed)
      [setSeq .cmd2PayloadFramed, .write (.display (.writeDigits pos.toNat segs))]
      (Standing segs.length .cmd2PayloadFramed) :=
    fun t ⟨⟨hbitcnt, hbyteidx, _⟩, hb, _⟩ => ⟨⟨hbitcnt, hbyteidx, nofun⟩, hb, rfl⟩
  have framed3 : TrackSpec (Standing segs.length .cmd2PayloadFramed)
      [setSeq .cmd3Framed, setSeq .idle, .write (.display (.setControl bright))] (Standing segs.length .idle) :=
    fun t ⟨⟨hbitcnt, hbyteidx, _⟩, hb, _⟩ => ⟨⟨hbitcnt, hbyteidx, nofun⟩, hb, rfl⟩
  exact (((((begins.append (TrackSpec.oneByteTransaction _)).append framed1).append transaction2).append
    framed2).append (TrackSpec.oneByteTransaction _)).append framed3

end

end Sys2Proof.Proofs
end

section
/-! PROOFS. The normal form of an instruction's meaning, one equation for each kind of step, and everything a step can
do. -/

namespace Sys2Proof.Proofs

open Sys2Proof.Machine Sys2Proof.Safety

/-! ### The meaning of an instruction -/

/-- What a ready block makes of a command: it answers at once with these output pulses, or it accepts it with these
actions. -/
inductive Reply where
  | answered (o : PortOutputs)
  | accepted (acts : List Action)

/-- The reply to a command that is refused with `code` and `data` (R115, R116). -/
def Reply.refused (code : RespCode) (data : Byte) : Reply := .answered ⟨false, some ⟨code, data⟩, none⟩

/-- The reply to each instruction. -/
def reply (s : State) : Instr → Reply
  | .drvlow l => .accepted (forgetDisplay :: driveLowActions l)
  | .release l => .accepted (forgetDisplay :: releaseActions l)
  | .settle => .accepted settleActions
  | .start => .accepted (forgetDisplay :: startActions)
  | .stop => .accepted (forgetDisplay :: stopActions)
  | .wrbyte v => .accepted (forgetDisplay :: writeByteActions v)
  | .setseg pos len f =>
    match argumentCheck pos len with
    | some cause => .refused .callerMisuse (misuseData cause len pos)
    | none => .accepted (setSegmentsActions s.bright s.linesIdle pos (segmentsOperand len f))
  | .lookup d => .answered ⟨true, some ⟨.ok, s.segrom d⟩, none⟩
  | .wireModeSelect => .accepted (forgetDisplay :: writeByteActions modeSelectByte)
  | .wireAddressSelect p =>
    if p.toNat < Config.numDigits then .accepted (forgetDisplay :: writeByteActions (addressSelectByte p))
    else .refused .illegalCmd 0#8
  | .wireDisplayControl b => .accepted (forgetDisplay :: writeByteActions (displayControlByte b))
  | .wireSegment aux pat => .accepted (forgetDisplay :: writeByteActions (segmentByte aux pat))

/-- The effect of a reply; a block that is not ready takes no command. -/
def Reply.perform (r : Reply) (s : State) : State :=
  match r with
  | .answered o => { s with out := if s.ready then o else .quiet }
  | .accepted acts => accept acts s

theorem reject_eq_perform (c : RespCode) (v : Byte) (s : State) : reject c v s = (Reply.refused c v).perform s := by
  cases h : s.ready <;> simp [Reply.refused, Reply.perform, reject, notAccepted, PortOutputs.quiet, h]

theorem answer_eq_perform (v : Byte) (s : State) :
    answer v s = (Reply.answered ⟨true, some ⟨.ok, v⟩, none⟩).perform s := by
  cases h : s.ready <;> simp [Reply.perform, answer, notAccepted, PortOutputs.quiet, h]

/-- Every instruction answers the next state its reply gives. -/
theorem exec_eq (i : Instr) (s : State) : exec i s = .next ((reply s i).perform s) := by
  cases i with
  | setseg pos len f =>
    rw [exec, execSetseg, reply]
    cases argumentCheck pos len with
    | none => rfl
    | some cause => exact congrArg _ (reject_eq_perform _ _ _)
  | wireAddressSelect p =>
    rw [exec, execWireAddressSelect, reply]
    split
    · rfl
    · exact congrArg _ (reject_eq_perform _ _ _)
  | lookup d => exact congrArg _ (answer_eq_perform _ _)
  | _ => rfl

/-- The reply to a command word: its instruction's, or the rejection of R116. -/
def replyToWord (s : State) (w : CodeWord) : Reply :=
  match decode w with
  | .ok i => reply s i
  | .error _ => .refused .illegalCmd 0#8

theorem runWord_eq (w : CodeWord) (s : State) : runWord w s = .next ((replyToWord s w).perform s) := by
  unfold runWord replyToWord
  cases decode w with
  | ok i => exact exec_eq i s
  | error e => exact congrArg _ (reject_eq_perform _ _ _)

theorem perform_of_not_ready {s : State} (h : s.ready = false) (r : Reply) :
    r.perform s = { s with out := .quiet } := by
  cases r with
  | answered o => simp [Reply.perform, h]
  | accepted acts => exact accept_not_ready h

/-- The three kinds of accepted operations: `settle()`, one that moves a line and makes the display unknown, and an
update. -/
theorem reply_accepted_cases {s : State} {i : Instr} {acts : List Action} (h : reply s i = .accepted acts) :
    acts = settleActions ∨ (∃ fs, LineOperation fs ∧ acts = forgetDisplay :: fs) ∨
      ∃ pos len f, i = .setseg pos len f ∧
        acts = setSegmentsActions s.bright s.linesIdle pos (segmentsOperand len f) := by
  cases i with
  | settle => exact .inl (Reply.accepted.inj h).symm
  | lookup d => exact nomatch h
  | drvlow l => exact .inr (.inl ⟨_, .driveLow l, (Reply.accepted.inj h).symm⟩)
  | release l => exact .inr (.inl ⟨_, .release l, (Reply.accepted.inj h).symm⟩)
  | start => exact .inr (.inl ⟨_, .start, (Reply.accepted.inj h).symm⟩)
  | stop => exact .inr (.inl ⟨_, .stop, (Reply.accepted.inj h).symm⟩)
  | setseg pos len f =>
    rw [reply] at h
    cases hc : argumentCheck pos len <;> rw [hc] at h
    · exact .inr (.inr ⟨pos, len, f, rfl, (Reply.accepted.inj h).symm⟩)
    · exact nomatch h
  | wireAddressSelect p =>
    rw [reply] at h
    split at h
    · exact .inr (.inl ⟨_, .writeByte _, (Reply.accepted.inj h).symm⟩)
    · exact nomatch h
  | _ => exact .inr (.inl ⟨_, .writeByte _, (Reply.accepted.inj h).symm⟩)

/-! ### Accepting a command -/

/-- What accepting a command does, whether or not it has an event. -/
theorem accept_of_ready {s : State} (h : s.ready = true) (acts : List Action) :
    accept acts s =
      { s with
        tracking := trackThrough (compile acts).1 s.tracking
        display := displayThrough (compile acts).1 s.display
        pend := (compile acts).2
        life := if (compile acts).2.isEmpty then .ready else .busy
        out := ⟨(compile acts).2.isEmpty, some ⟨.ok, 0#8⟩, none⟩ } := by
  simp [accept, h, applyWrites_eq, PortOutputs.quiet]

section
variable (acts : List Action) (s : State)

@[simp] theorem accept_mode (l : Line) : (accept acts s).mode l = s.mode l := by
  unfold accept
  split
  · exact applyWrites_mode _ s l
  · rfl

@[simp] theorem accept_fcause : (accept acts s).fcause = s.fcause := by
  unfold accept; split <;> simp [notAccepted]

@[simp] theorem accept_trace : (accept acts s).trace = s.trace := by
  unfold accept; split <;> simp [notAccepted]

@[simp] theorem accept_bright : (accept acts s).bright = s.bright := by
  unfold accept; split <;> simp [notAccepted]

@[simp] theorem accept_pinClk : (accept acts s).pinClk = s.pinClk := by
  unfold accept; split <;> simp [notAccepted]

@[simp] theorem accept_pinDio : (accept acts s).pinDio = s.pinDio := by
  unfold accept; split <;> simp [notAccepted]

@[simp] theorem accept_segromHigh : (accept acts s).segromHigh = s.segromHigh := by
  unfold accept; split <;> simp [notAccepted]

@[simp] theorem accept_platform : (accept acts s).platform = s.platform := by
  unfold accept; split <;> simp [notAccepted]

end

/-! ### Performing an event -/

/-- The mode-set call an event makes, if it is a mode-set (R74, R75). -/
def issueEvent (e : Event) (s : State) : State :=
  match e with
  | .settle => s
  | .modeSet l m => issueModeSet l m s

section
variable (e : Event) (s : State)

@[simp] theorem issueEvent_mode (l : Line) : (issueEvent e s).mode l = modeAfter l (s.mode l) [e] := by
  cases e with
  | settle => rfl
  | modeSet k m =>
    by_cases h : k = l
    · simp [issueEvent, modeAfter, h]
    · simp [issueEvent, modeAfter, h, State.setMode_mode_other s m (Ne.symm h)]

@[simp] theorem issueEvent_pinId (l : Line) : (issueEvent e s).pinId l = s.pinId l := by
  cases e <;> simp [issueEvent]

@[simp] theorem issueEvent_pinClk : (issueEvent e s).pinClk = s.pinClk := by
  cases e <;> simp [issueEvent]

@[simp] theorem issueEvent_pinDio : (issueEvent e s).pinDio = s.pinDio := by
  cases e <;> simp [issueEvent]

@[simp] theorem issueEvent_bright : (issueEvent e s).bright = s.bright := by
  cases e <;> simp [issueEvent]

@[simp] theorem issueEvent_tracking : (issueEvent e s).tracking = s.tracking := by
  cases e <;> simp [issueEvent]

@[simp] theorem issueEvent_fcause : (issueEvent e s).fcause = s.fcause := by
  cases e <;> simp [issueEvent]

@[simp] theorem issueEvent_trace : (issueEvent e s).trace = s.trace := by
  cases e <;> simp [issueEvent]

@[simp] theorem issueEvent_segromHigh : (issueEvent e s).segromHigh = s.segromHigh := by
  cases e <;> simp [issueEvent]

@[simp] theorem issueEvent_display : (issueEvent e s).display = s.display := by
  cases e <;> simp [issueEvent]

@[simp] theorem issueEvent_platform : (issueEvent e s).platform = s.platform := by
  cases e <;> simp [issueEvent]

@[simp] theorem issueEvent_script : (issueEvent e s).script = s.script := by
  cases e <;> simp [issueEvent]

@[simp] theorem issueEvent_freeCount : (issueEvent e s).freeCount = s.freeCount := by
  cases e <;> simp [issueEvent]

end

@[simp] theorem finishEvent_tracking (p : PendingEvent) (rest : List PendingEvent) (s : State) :
    (finishEvent p rest s).tracking = trackThrough p.writes s.tracking := by
  rw [finishEvent_eq]

@[simp] theorem finishEvent_display (p : PendingEvent) (rest : List PendingEvent) (s : State) :
    (finishEvent p rest s).display = displayThrough p.writes s.display := by
  rw [finishEvent_eq]

/-- The step of a running operation whose head event does not fail. -/
theorem performHead_succeeds {s : State} {p : PendingEvent} {rest : List PendingEvent} (hp : s.pend = p :: rest) :
    performHead false s = .next (finishEvent p rest (issueEvent p.event s)) := by
  cases he : p.event <;> simp [performHead, issueEvent, hp, he]

/-! ### One equation for each kind of step (R19, R20) -/

section
variable {s : State}

theorem step_of_reset (h : s.inputs.rstN = false) : step s = .next (hardwareReset (beginStep s)) := by
  simp [step, cycle, h]

theorem step_of_termination (hr : s.inputs.rstN = true) (ht : s.inputs.term = true) :
    step s = .next (terminate (beginStep s)) := by
  simp [step, cycle, hr, ht]

theorem step_of_uninit (h : Running s) (hl : s.life = .uninit) :
    step s = .next (initialise s.configPorts (beginStep s)) := by
  simp [step, cycle, h.1, h.2, hl]

theorem step_of_no_command (h : Running s) (hl : s.life = .ready) (hc : s.inputs.cmd = none) :
    step s = .next (beginStep s) := by
  simp [step, cycle, h.1, h.2, hl, hc]

theorem step_of_command (h : Running s) (hl : s.life = .ready) {w : CodeWord} (hc : s.inputs.cmd = some w) :
    step s = runWord w (beginStep s) := by
  simp [step, cycle, h.1, h.2, hl, hc]

theorem step_of_busy (h : Running s) (hl : s.life = .busy) :
    step s = performHead s.inputs.gpioFail (beginStep s) := by
  simp [step, cycle, h.1, h.2, hl]

theorem step_of_faulted (h : Running s) (hl : s.life = .faulted) : step s = .next (beginStep s) := by
  simp [step, cycle, h.1, h.2, hl]

theorem step_of_terminated (h : Running s) (hl : s.life = .terminated) : step s = .next (beginStep s) := by
  simp [step, cycle, h.1, h.2, hl]

end

/-! ### Everything a step can do -/

/-- The moves of the machine: what a step from `s` that answers `t` has done. -/
inductive Move (s : State) : State → Prop where
  | reset (h : s.inputs.rstN = false) : Move s (hardwareReset (beginStep s))
  | terminated (hr : s.inputs.rstN = true) (ht : s.inputs.term = true) : Move s (terminate (beginStep s))
  | startupFailed (h : Running s) (hl : s.life = .uninit) {cause : FaultCause} (hc : cause ≠ .none) :
      Move s (raiseFatal cause (beginStep s))
  | started (h : Running s) (hl : s.life = .uninit) (p : PlatformInputs) :
      Move s (loadConfiguration p (beginStep s))
  /-- Nothing but the inputs and the output pulses changes: no command, a command that is not accepted, or a block that
  has stopped. -/
  | stood (h : Running s) (hu : s.life ≠ .uninit) (hb : s.life ≠ .busy) (o : PortOutputs) :
      Move s { beginStep s with out := o }
  | accepted (h : Running s) (hr : s.ready = true) {i : Instr} {acts : List Action}
      (ha : reply (beginStep s) i = .accepted acts) : Move s (accept acts (beginStep s))
  | emitted (h : Running s) (hl : s.life = .busy) {p : PendingEvent} {rest : List PendingEvent}
      (hp : s.pend = p :: rest) : Move s (finishEvent p rest (issueEvent p.event (beginStep s)))
  | failed (h : Running s) (hl : s.life = .busy) {l : Line} {m : Mode} {ws : List Attached}
      {rest : List PendingEvent} (hp : s.pend = ⟨.modeSet l m, ws⟩ :: rest) :
      Move s (raiseGpioError l m (beginStep s))

theorem startupCheck_ne_none {p : PlatformInputs} {cause : FaultCause} (h : startupCheck p = some cause) :
    cause ≠ .none := by
  obtain ⟨hc, -⟩ | ⟨hc, -⟩ | ⟨hc, -⟩ := startupCheck_cases p <;> rw [hc] at h
  · exact nomatch h
  · exact Option.some.inj h ▸ nofun
  · exact Option.some.inj h ▸ nofun

/-- A command on the port of a ready block is accepted, or the block stands. -/
theorem move_of_command {s : State} (h : Running s) (hl : s.life = .ready) (w : CodeWord) :
    Move s ((replyToWord (beginStep s) w).perform (beginStep s)) := by
  have stood : ∀ o, Move s { beginStep s with out := o } := .stood h (by simp [hl]) (by simp [hl])
  cases hr : s.ready with
  | false =>
    rw [perform_of_not_ready (s := beginStep s) hr]
    exact stood _
  | true =>
    cases hw : replyToWord (beginStep s) w with
    | answered o => exact stood _
    | accepted acts =>
      rw [replyToWord] at hw
      cases hd : decode w with
      | ok i => exact .accepted h hr (by simpa [hd] using hw)
      | error e => simp [hd, Reply.refused] at hw

/-- The event at the head of `PEND` is performed, or its mode-set call fails. -/
theorem move_of_performHead {s t : State} {fail : Bool} (h : Running s) (hl : s.life = .busy)
    (ht : performHead fail (beginStep s) = .next t) : Move s t := by
  obtain ⟨⟨e, ws⟩, rest, hp, ⟨he, rfl⟩ | ⟨l, m, he, ⟨-, rfl⟩ | ⟨-, rfl⟩⟩⟩ := performHead_cases ht <;> cases he
  · exact .emitted h hl hp
  · exact .emitted h hl hp
  · exact .failed h hl hp

/-- Every step is one of the moves. -/
theorem step_move {s t : State} (h : step s = .next t) : Move s t := by
  obtain ⟨hr, rfl⟩ | ⟨hr, ⟨ht, rfl⟩ | ⟨ht, hrun⟩⟩ := step_cases h
  · exact .reset hr
  · exact .terminated hr ht
  · have running : Running s := ⟨hr, ht⟩
    obtain ⟨hl, rfl⟩ | ⟨hl, -, rfl⟩ | ⟨hl, w, -, hw⟩ | ⟨hl, hp⟩ | ⟨hl, rfl⟩ | ⟨hl, rfl⟩ := hrun
    · obtain ⟨-, hi⟩ | ⟨cause, hc, hi⟩ := initialise_cases s.configPorts (beginStep s) <;> rw [hi]
      · exact .started running hl _
      · exact .startupFailed running hl (startupCheck_ne_none hc)
    · exact .stood running (by simp [hl]) (by simp [hl]) .quiet
    · rw [runWord_eq] at hw
      exact Host.Outcome.next.inj hw ▸ move_of_command running hl w
    · exact move_of_performHead running hl hp
    · exact .stood running (by simp [hl]) (by simp [hl]) .quiet
    · exact .stood running (by simp [hl]) (by simp [hl]) .quiet

end Sys2Proof.Proofs
end

section
/-! PROOFS. The machine's invariant: it holds of the reset state and every move keeps it; and the modes follow
the trace. -/

namespace Sys2Proof.Proofs

open Sys2Proof.Machine Sys2Proof.Safety

/-! ### The modes after a list of events (R11) -/

theorem modeAfter_cons (l : Line) (m : Mode) (e : Event) (es : List Event) :
    modeAfter l m (e :: es) = modeAfter l (modeAfter l m [e]) es := by
  cases e <;> rfl

theorem modeAfter_append (l : Line) (m : Mode) (a b : List Event) :
    modeAfter l m (a ++ b) = modeAfter l (modeAfter l m a) b := by
  induction a generalizing m with
  | nil => rfl
  | cons e rest ih => rw [List.cons_append, modeAfter_cons, ih, ← modeAfter_cons]

/-! ### The end of an update (R91) -/

/-- An update ends with a `stop()`, whose writes are followed by those that complete the update. -/
theorem setSegments_ends_with_stop (bright : BitVec 4) (linesIdle : Bool) (pos : BitVec 3) (segs : List Byte) :
    ∃ before, setSegmentsActions bright linesIdle pos segs =
      before ++ (stopActions ++ [setSeq .cmd3Framed, setSeq .idle, .write (.display (.setControl bright))]) := by
  simp only [setSegmentsActions, transaction3, ← List.append_assoc]
  exact ⟨_, rfl⟩

/-- After an update both lines are released (R82). -/
theorem setSegments_releases (bright : BitVec 4) (linesIdle : Bool) (pos : BitVec 3) (segs : List Byte) (l : Line)
    (m : Mode) : modeAfter l m (emitted (setSegmentsActions bright linesIdle pos segs)) = .input := by
  obtain ⟨before, hb⟩ := setSegments_ends_with_stop bright linesIdle pos segs
  rw [hb, emitted_append, modeAfter_append]
  cases l <;> rfl

/-- After an update no transaction is open (R23). -/
theorem setSegments_closes (bright : BitVec 4) (linesIdle : Bool) (pos : BitVec 3) (segs : List Byte)
    (t : Tracking) : (trackThrough (writesOf (setSegmentsActions bright linesIdle pos segs)) t).txn = .stopped := by
  obtain ⟨before, hb⟩ := setSegments_ends_with_stop bright linesIdle pos segs
  rw [hb, writesOf_append, trackThrough_append]
  rfl

/-- A `SETSEG` word has at most six segment fields. -/
theorem segmentsOperand_length_le (len : BitVec 3) (f : SegFields) :
    (segmentsOperand len f).length ≤ Config.numDigits :=
  List.length_take_le' _ _

/-! ### What is left of an accepted operation, in terms of its pseudocode -/

theorem compile_isEmpty_iff (acts : List Action) : (compile acts).2.isEmpty = true ↔ emitted acts = [] := by
  rw [List.isEmpty_iff, ← compile_events, List.map_eq_nil_iff]

/-- Every operation a ready block accepts keeps the tracking registers in range to its end. -/
theorem accepted_trackingSound {s : State} {i : Instr} {acts : List Action} (ha : reply s i = .accepted acts)
    (hs : trackingInRange s.tracking ∧ s.tracking.seq = .idle) :
    trackingSound (compile acts).2 (trackThrough (compile acts).1 s.tracking) := by
  obtain ⟨hr, hq⟩ := hs
  rw [trackingSound_compile]
  have start : Standing s.tracking.byteidx.toNat .idle s.tracking := ⟨hr, rfl, hq⟩
  have done {b : Nat} : ∀ t, Standing b .idle t → trackingInRange t ∧ t.seq = .idle := fun t ht => ⟨ht.inRange, ht.seq⟩
  obtain rfl | ⟨fs, hfs, rfl⟩ | ⟨pos, len, f, -, rfl⟩ := reply_accepted_cases ha
  · exact ⟨hr, hr, hq⟩
  · exact inRangeThrough_mono done (hfs.trackSpec _ start)
  · exact inRangeThrough_mono done
      (TrackSpec.setSegments _ _ pos (segmentsOperand_length_le len f) _ start)

/-- A display that is in step at the end of an accepted operation is bracketed: `settle()` changes nothing, an operation
that moves a line forgets the display, and an update releases the lines and closes its transaction. -/
theorem accepted_bracketed {s : State} {i : Instr} {acts : List Action} (ha : reply s i = .accepted acts)
    (hp : s.pend = []) (hs : inStepMeansBracketed s)
    (hd : (displayThrough (writesOf acts) s.display).inStep = true) :
    (∀ l, modeAfter l (s.mode l) (emitted acts) = .input) ∧
      startInOrder (trackThrough (writesOf acts) s.tracking).txn = true := by
  obtain rfl | ⟨fs, hfs, rfl⟩ | ⟨pos, len, f, -, rfl⟩ := reply_accepted_cases ha
  · rw [inStepMeansBracketed, pendingEvents, hp] at hs
    exact hs hd
  · have unknown : displayThrough (writesOf (forgetDisplay :: fs)) s.display = .unknown :=
      displayThrough_framer hfs.framerWrites .unknown
    exact absurd (unknown ▸ hd) (by decide)
  · exact ⟨fun l => setSegments_releases .., by rw [setSegments_closes]; rfl⟩

theorem trackingInRange_of_trackingSound {ps : List PendingEvent} {t : Tracking} (h : trackingSound ps t) :
    trackingInRange t := by
  cases ps with
  | nil => exact h.1
  | cons p rest => exact h.1

/-! ### Each move keeps the invariant -/

section
variable {s t : State} (hs : StateInv s)
include hs

theorem stateInv_pend_eq_nil (h : s.life ≠ .busy) : s.pend = [] :=
  not_not.mp fun hp => h (hs.busyIffPending.mpr hp)

theorem stateInv_fcause_eq_none (hf : s.life ≠ .faulted) (ht : s.life ≠ .terminated) : s.fcause = .none :=
  not_not.mp fun hc => (hs.causeOnlyAfterFault hc).elim hf ht

/-- An operation is cut and the block stops: termination, a bad configuration, a GPIO failure. -/
theorem stateInv_stopped (hl : t.life = .faulted ∧ t.fcause ≠ .none ∨ t.life = .terminated) (hp : t.pend = [])
    (hd : t.display = displayAfterCut s) (hk : t.tracking = s.tracking)
    (hm : s.pend = [] → ∀ l, t.mode l = s.mode l) : StateInv t where
  busyIffPending := by obtain ⟨hl, -⟩ | hl := hl <;> simp [hl, hp]
  faultedHasCause h := by
    obtain ⟨-, hc⟩ | hl := hl
    · exact hc
    · exact absurd (hl.symm.trans h) (by decide)
  causeOnlyAfterFault _ := hl.imp_left And.left
  displayWf := by
    rw [hd, displayAfterCut]
    split
    · exact hs.displayWf
    · exact ⟨.nil, nofun⟩
  inRange := hk ▸ hs.inRange
  sound hf ht := by
    obtain ⟨hl, -⟩ | hl := hl
    · exact absurd hl hf
    · exact absurd hl ht
  digitsInStep := by
    rw [hd, displayAfterCut]
    split
    · exact hs.digitsInStep
    · exact fun _ => ⟨rfl, rfl⟩
  bracketed h := by
    by_cases hsp : s.pend = []
    · have hb := hs.bracketed
      simp only [inStepMeansBracketed, pendingEvents, hsp, hp, hd, hk, hm hsp, displayAfterCut_of_idle hsp] at hb h ⊢
      exact hb h
    · simp [hp, hd, displayAfterCut_of_pending hsp, displayAtEnd, Display.unknown] at h

theorem stateInv_loadConfiguration (p : PlatformInputs) (hl : s.life = .uninit) :
    StateInv (loadConfiguration p s) where
  busyIffPending := by simp [loadConfiguration, stateInv_pend_eq_nil hs (by simp [hl])]
  faultedHasCause := nofun
  causeOnlyAfterFault h := absurd (stateInv_fcause_eq_none hs (by simp [hl]) (by simp [hl])) h
  displayWf := hs.displayWf
  inRange := hs.inRange
  sound _ _ := hs.sound (by simp [hl]) (by simp [hl])
  digitsInStep := hs.digitsInStep
  bracketed := hs.bracketed

theorem stateInv_accept {i : Instr} {acts : List Action} (hr : s.ready = true) (ha : reply s i = .accepted acts) :
    StateInv (accept acts s) := by
  obtain ⟨hl, hp⟩ := (ready_iff s).mp hr
  have sound : trackingSound s.pend s.tracking := hs.sound (by simp [hl]) (by simp [hl])
  rw [hp] at sound
  have sound' := accepted_trackingSound ha sound
  have hmode : ∀ l, (accept acts s).mode l = s.mode l := accept_mode acts s
  rw [accept_of_ready hr] at hmode ⊢
  exact {
    busyIffPending := by cases h : (compile acts).2 <;> simp
    faultedHasCause := fun h => by cases hc : (compile acts).2 <;> simp [hc] at h
    causeOnlyAfterFault := fun h => absurd (stateInv_fcause_eq_none hs (by simp [hl]) (by simp [hl])) h
    displayWf := displayThrough_wf _ hs.displayWf
    inRange := trackingInRange_of_trackingSound sound'
    sound := fun _ _ => sound'
    digitsInStep := displayThrough_knownOnlyInStep _ hs.digitsInStep
    bracketed := fun hd => by
      simp only [displayAtEnd_compile, trackingAtEnd_compile, pendingEvents, compile_events, hmode] at hd ⊢
      exact accepted_bracketed ha hp hs.bracketed hd }

theorem stateInv_finishEvent {p : PendingEvent} {rest : List PendingEvent} (hl : s.life = .busy)
    (hp : s.pend = p :: rest) : StateInv (finishEvent p rest (issueEvent p.event s)) := by
  have sound : trackingSound s.pend s.tracking := hs.sound (by simp [hl]) (by simp [hl])
  have sound' : trackingSound rest (trackThrough p.writes s.tracking) := by rw [hp] at sound; exact sound.2
  exact {
    busyIffPending := by cases rest <;> simp
    faultedHasCause := fun h => by cases rest <;> simp at h
    causeOnlyAfterFault := fun h =>
      absurd (stateInv_fcause_eq_none hs (by simp [hl]) (by simp [hl])) (by simpa using h)
    displayWf := by simpa using displayThrough_wf p.writes hs.displayWf
    inRange := by simpa using trackingInRange_of_trackingSound sound'
    sound := fun _ _ => by simpa using sound'
    digitsInStep := by simpa using displayThrough_knownOnlyInStep p.writes hs.digitsInStep
    bracketed := by
      have hb := hs.bracketed
      simp only [inStepMeansBracketed, pendingEvents, hp, displayAtEnd, trackingAtEnd, List.map_cons] at hb
      simpa [inStepMeansBracketed, pendingEvents, ← modeAfter_cons] using hb }

end

theorem trackingSound_reset : trackingSound [] Tracking.reset := by constructor <;> decide

/-- Reset gives a sound state whatever was running (R140). -/
theorem stateInv_hardwareReset (s : State) : StateInv (hardwareReset s) where
  busyIffPending := by simp [hardwareReset, State.reset]
  faultedHasCause := nofun
  causeOnlyAfterFault h := absurd rfl h
  displayWf := ⟨.nil, nofun⟩
  inRange := trackingSound_reset.1
  sound _ _ := trackingSound_reset
  digitsInStep _ := ⟨rfl, rfl⟩
  bracketed _ := ⟨fun l => by cases l <;> rfl, rfl⟩

/-- Consuming the inputs of a step and showing other output pulses touches nothing the invariant speaks of. -/
theorem stateInv_beginStep {s : State} (hs : StateInv s) (o : PortOutputs) : StateInv { beginStep s with out := o } :=
  ⟨hs.busyIffPending, hs.faultedHasCause, hs.causeOnlyAfterFault, hs.displayWf, hs.inRange, hs.sound, hs.digitsInStep,
    hs.bracketed⟩

theorem move_keeps_stateInv {s t : State} (hs : StateInv s) (h : Move s t) : StateInv t := by
  have hb : StateInv (beginStep s) := stateInv_beginStep hs .quiet
  cases h with
  | reset _ => exact stateInv_hardwareReset _
  | terminated _ _ => exact stateInv_stopped hb (.inr rfl) rfl rfl rfl fun _ _ => rfl
  | startupFailed _ _ hc => exact stateInv_stopped hb (.inl ⟨rfl, hc⟩) rfl rfl rfl fun _ _ => rfl
  | started _ hl p => exact stateInv_loadConfiguration hb p hl
  | stood _ _ _ o => exact stateInv_beginStep hs o
  | accepted _ hr ha => exact stateInv_accept hb hr ha
  | emitted _ hl hp => exact stateInv_finishEvent hb hl hp
  | @failed _ hl l m ws rest hp =>
    obtain ⟨x, -, hx⟩ := raiseGpioError_mode l m (beginStep s)
    rw [hx]
    exact stateInv_stopped hb (.inl ⟨rfl, nofun⟩) rfl rfl (State.setMode_tracking ..) fun h =>
      absurd (hp.symm.trans h) (by simp)

/-- Settles O59: each move of the machine keeps the invariant; accepting an operation keeps it by the specification of
its pseudocode. -/
theorem everyStepKeepsTheInvariant : Obligations.EveryStepKeepsTheInvariant :=
  fun _ _ hs h => move_keeps_stateInv hs (step_move h)

/-- Settles O58: the reset state is what a reset makes of it. -/
theorem resetStateIsSound : Obligations.ResetStateIsSound := stateInv_hardwareReset State.reset

/-! ### The modes follow the trace (R11, R24) -/

theorem modesFollowTrace_of_same {s t : State} (h : ModesFollowTrace s) (hm : ∀ l, t.mode l = s.mode l)
    (ht : t.trace = s.trace) (hc : t.fcause ≠ .gpioError → s.fcause ≠ .gpioError) : ModesFollowTrace t :=
  fun hf l => by rw [hm, ht]; exact h (hc hf) l

/-- Settles O60: only a performed event changes a mode without a recorded GPIO error, and it records itself. -/
theorem modesAgreeWithTheTrace : Obligations.ModesAgreeWithTheTrace := by
  refine ⟨fun _ l => by cases l <;> rfl, fun s t hs hm h => ?_⟩
  cases step_move h with
  | reset _ => exact fun _ l => by cases l <;> rfl
  | terminated _ _ => exact modesFollowTrace_of_same hm (fun _ => rfl) rfl id
  | startupFailed _ hl _ =>
    have hc : s.fcause = .none := stateInv_fcause_eq_none hs (by simp [hl]) (by simp [hl])
    exact modesFollowTrace_of_same hm (fun _ => rfl) rfl fun _ => by simp [hc]
  | started _ _ _ => exact modesFollowTrace_of_same hm (fun _ => rfl) rfl id
  | stood _ _ _ _ => exact modesFollowTrace_of_same hm (fun _ => rfl) rfl id
  | accepted _ _ _ =>
    exact modesFollowTrace_of_same hm (fun l => by simp) (by simp) (by simp)
  | emitted _ _ _ =>
    intro hf l
    have hf' : s.fcause ≠ .gpioError := by simpa using hf
    simp [modeAfter_append, ← hm hf' l]
  | @failed _ _ l m _ _ _ =>
    obtain ⟨x, -, hx⟩ := raiseGpioError_mode l m (beginStep s)
    exact fun hf => absurd (by rw [hx]) hf

end Sys2Proof.Proofs
end

section
/-! PROOFS. What no step writes, the order of LIFE and FCAUSE, and the independence of the tracking registers. -/

namespace Sys2Proof.Proofs

open Sys2Proof.Machine Sys2Proof.Safety

/-! ### Frames of a step -/

/-- Settles O33: only initialisation and reset write the configuration, and no move writes the ROM. -/
theorem configurationIsWrittenOnlyAtStartup : Obligations.ConfigurationIsWrittenOnlyAtStartup := by
  intro s t h
  have segrom_of_eq : t.segromHigh = s.segromHigh → ∀ d, t.segrom d = s.segrom d :=
    fun hrom d => by simp only [State.segrom, hrom]
  suffices frame : t.segromHigh = s.segromHigh ∧ t.platform = s.platform ∧
      (s.inputs.rstN = true → s.life ≠ .uninit →
        t.bright = s.bright ∧ t.pinClk = s.pinClk ∧ t.pinDio = s.pinDio) from
    ⟨frame.1, segrom_of_eq frame.1, frame.2⟩
  cases step_move h with
  | reset hr => exact ⟨rfl, rfl, fun hr' => absurd (hr.symm.trans hr') (by decide)⟩
  | terminated _ _ => exact ⟨rfl, rfl, fun _ _ => ⟨rfl, rfl, rfl⟩⟩
  | startupFailed _ _ _ => exact ⟨rfl, rfl, fun _ _ => ⟨rfl, rfl, rfl⟩⟩
  | started _ hl p => exact ⟨rfl, rfl, fun _ hl' => absurd hl hl'⟩
  | stood _ _ _ _ => exact ⟨rfl, rfl, fun _ _ => ⟨rfl, rfl, rfl⟩⟩
  | accepted _ _ _ => simp
  | emitted _ _ _ => simp
  | @failed _ _ l m _ _ _ =>
    obtain ⟨x, -, hx⟩ := raiseGpioError_mode l m (beginStep s)
    rw [hx]
    simp

/-- Settles O54: of all moves only a performed event writes the trace. -/
theorem traceOnlyGrows : Obligations.TraceOnlyGrows := by
  intro s t h hr
  cases step_move h with
  | reset hr' => exact absurd (hr'.symm.trans hr) (by decide)
  | terminated _ _ => exact .inl rfl
  | startupFailed _ _ _ => exact .inl rfl
  | started _ _ _ => exact .inl rfl
  | stood _ _ _ _ => exact .inl rfl
  | accepted _ _ _ => exact .inl (by simp)
  | @emitted _ hl p rest hp => exact .inr ⟨hl, p, rest, hp, by simp⟩
  | @failed _ _ l m _ _ _ =>
    obtain ⟨x, -, hx⟩ := raiseGpioError_mode l m (beginStep s)
    exact .inl (by rw [hx]; simp)

/-- Settles O55: a changed mode is that of the mode-set event performed, or of the one that failed. -/
theorem onlyModeSetsAndResetWriteModes : Obligations.OnlyModeSetsAndResetWriteModes := by
  intro s t l h hr hne
  cases step_move h with
  | reset hr' => exact absurd (hr'.symm.trans hr) (by decide)
  | terminated _ _ => exact absurd rfl hne
  | startupFailed _ _ _ => exact absurd rfl hne
  | started _ _ _ => exact absurd rfl hne
  | stood _ _ _ _ => exact absurd rfl hne
  | accepted _ _ _ => exact absurd (by simp) hne
  | @emitted hrun hl p rest hp =>
    obtain ⟨⟨k, m⟩ | _, ws⟩ := p
    · obtain rfl : k = l := by
        by_contra hk
        exact hne (by simp [modeAfter, hk])
      exact ⟨hl, hrun.2, m, ws, rest, hp, by simp [modeAfter]⟩
    · exact absurd (by simp [modeAfter]) hne
  | @failed hrun hl k m ws rest hp =>
    obtain ⟨x, hxm, hx⟩ := raiseGpioError_mode k m (beginStep s)
    have hmode : (raiseGpioError k m (beginStep s)).mode l = ((beginStep s).setMode k x).mode l := by rw [hx]; rfl
    rw [hmode] at hne ⊢
    obtain rfl : k = l := by
      by_contra hk
      exact hne (by simp [State.setMode_mode_other _ x (Ne.symm hk)])
    rw [State.setMode_mode_same] at hne ⊢
    exact ⟨hl, hrun.2, m, ws, rest, hp, hxm.resolve_left hne⟩

/-! ### The life cycle (R20, R21) -/

theorem accept_life {acts : List Action} {s : State} (h : s.ready = true) :
    (accept acts s).life = if (compile acts).2.isEmpty then .ready else .busy := by
  rw [accept_of_ready h]

theorem accept_pend {acts : List Action} {s : State} (h : s.ready = true) :
    (accept acts s).pend = (compile acts).2 := by
  rw [accept_of_ready h]

/-- `LIFE` and `PEND` of a block in operation go together. -/
theorem life_and_pend_of_isEmpty {t : State} {ps : List PendingEvent} (hp : t.pend = ps)
    (hl : t.life = if ps.isEmpty then .ready else .busy) :
    t.life = .ready ∧ t.pend = [] ∨ t.life = .busy ∧ t.pend ≠ [] := by
  cases ps with
  | nil => exact .inl ⟨hl, hp⟩
  | cons p rest => exact .inr ⟨hl, by simp [hp]⟩

theorem raiseGpioError_life (l : Line) (m : Mode) (s : State) : (raiseGpioError l m s).life = .faulted := rfl

theorem raiseGpioError_fcause (l : Line) (m : Mode) (s : State) : (raiseGpioError l m s).fcause = .gpioError := rfl

/-- The transitions of a block that is neither reset nor terminated (R20). -/
theorem life_transitions {s t : State} (hm : Move s t) (hrun : Running s) :
    (s.life = .uninit → t.life = .ready ∨ t.life = .faulted) ∧
      (s.life = .ready → t.life = .ready ∨ t.life = .busy ∧ t.pend ≠ []) ∧
      (s.life = .busy → t.life = .ready ∧ t.pend = [] ∨ t.life = .busy ∧ t.pend ≠ [] ∨
        t.life = .faulted ∧ t.fcause = .gpioError) ∧
      (s.life = .faulted → t.life = .faulted) ∧ (s.life = .terminated → t.life = .terminated) := by
  cases hm with
  | reset hr => exact absurd (hr.symm.trans hrun.1) (by decide)
  | terminated _ ht => exact absurd (ht.symm.trans hrun.2) (by decide)
  | startupFailed _ hl _ => simp [hl, raiseFatal]
  | started _ hl _ => simp [hl, loadConfiguration]
  | stood _ hu hb _ => exact ⟨fun h => absurd h hu, .inl, fun h => absurd h hb, id, id⟩
  | @accepted _ hr _ acts _ =>
    obtain ⟨hl, -⟩ := (ready_iff s).mp hr
    have hlp := life_and_pend_of_isEmpty (accept_pend (acts := acts) (s := beginStep s) hr) (accept_life hr)
    refine ⟨fun h => ?_, fun _ => hlp.imp_left And.left, fun h => ?_, fun h => ?_, fun h => ?_⟩ <;>
      exact absurd (hl.symm.trans h) (by decide)
  | @emitted _ hl p rest _ =>
    have hlp := life_and_pend_of_isEmpty (t := finishEvent p rest (issueEvent p.event (beginStep s))) rfl rfl
    refine ⟨fun h => ?_, fun h => ?_, fun _ => hlp.imp_right .inl, fun h => ?_, fun h => ?_⟩ <;>
      exact absurd (hl.symm.trans h) (by decide)
  | failed _ hl _ => simp [hl, raiseGpioError_life, raiseGpioError_fcause]

/-- Settles O52: the transitions are those of the moves. -/
theorem lifeCycleTransitions : Obligations.LifeCycleTransitions := by
  refine ⟨fun s t _ h => ⟨fun hr => ?_, fun hr ht => ?_, life_transitions (step_move h)⟩, fun acts s hr => ?_,
    rfl, rfl, rfl, rfl, rfl⟩
  · cases (step_of_reset hr).symm.trans h
    rfl
  · cases (step_of_termination hr ht).symm.trans h
    rfl
  · rw [accept_life hr]
    exact ⟨fun he => if_neg (mt (compile_isEmpty_iff acts).mp he), fun he => if_pos ((compile_isEmpty_iff acts).mpr he)⟩

/-- Outside a reset only the entry to a fatal error writes `FCAUSE` (R21). -/
theorem fcause_kept_or_taken {s t : State} (hm : Move s t) (hr : s.inputs.rstN = true) :
    t.fcause = s.fcause ∨
      (s.life ≠ .faulted ∧ s.life ≠ .terminated) ∧ t.life = .faulted ∧ t.fcause ≠ .none := by
  cases hm with
  | reset hr' => exact absurd (hr'.symm.trans hr) (by decide)
  | terminated _ _ => exact .inl rfl
  | startupFailed _ hl hc => exact .inr ⟨by simp [hl], rfl, hc⟩
  | started _ _ _ => exact .inl rfl
  | stood _ _ _ _ => exact .inl rfl
  | accepted _ _ _ => exact .inl (by simp)
  | emitted _ _ _ => exact .inl (by simp)
  | failed _ hl _ => exact .inr ⟨by simp [hl], rfl, nofun⟩

/-- Settles O53: a cause is written only by a block that has not stopped, and in a sound state none is recorded
there. -/
theorem faultCauseIsWrittenOnce : Obligations.FaultCauseIsWrittenOnce := by
  refine ⟨fun s t h hr => ?_, fun s t hs h hr hc => ?_, fun s t h hr => ?_, rfl, rfl, rfl⟩
  · exact (fcause_kept_or_taken (step_move h) hr).imp_right fun ⟨⟨hf, _⟩, ht⟩ => ⟨hf, ht⟩
  · exact (fcause_kept_or_taken (step_move h) hr).resolve_right fun ⟨⟨hf, ht⟩, _⟩ =>
      hc (stateInv_fcause_eq_none hs hf ht)
  · cases (step_of_reset hr).symm.trans h
    rfl

/-! ### The tracking registers gate nothing (R17, R19, R22, R23) -/

/-- The state `s` with other tracking registers. -/
def withTracking (s : State) (k : Tracking) : State := { s with tracking := k }

section
variable (s : State) (k : Tracking)

theorem perform_withTracking (r : Reply) :
    ∃ k', r.perform (withTracking s k) = withTracking (r.perform s) k' := by
  cases r with
  | answered o => exact ⟨k, rfl⟩
  | accepted acts =>
    cases hr : s.ready with
    | false =>
      have hs : accept acts s = { s with out := .quiet } := accept_not_ready hr
      have hk : accept acts (withTracking s k) = { withTracking s k with out := .quiet } := accept_not_ready hr
      exact ⟨k, by rw [Reply.perform, Reply.perform, hs, hk]; rfl⟩
    | true =>
      have hk := accept_of_ready (s := withTracking s k) hr acts
      exact ⟨trackThrough (compile acts).1 k, by rw [Reply.perform, Reply.perform, accept_of_ready hr, hk]; rfl⟩

theorem replyToWord_withTracking (w : CodeWord) : replyToWord (withTracking s k) w = replyToWord s w := by
  unfold replyToWord
  cases decode w with
  | ok i => cases i <;> rfl
  | error e => rfl

theorem initialise_withTracking (p : PlatformInputs) :
    initialise p (withTracking s k) = withTracking (initialise p s) k := by
  unfold initialise
  cases startupCheck p <;> rfl

theorem issueModeSet_withTracking (l : Line) (m : Mode) :
    issueModeSet l m (withTracking s k) = withTracking (issueModeSet l m s) k := by
  cases l <;> rfl

theorem raiseGpioError_withTracking (l : Line) (m : Mode) :
    raiseGpioError l m (withTracking s k) = withTracking (raiseGpioError l m s) k := by
  cases l <;> rfl

theorem finishEvent_withTracking (p : PendingEvent) (rest : List PendingEvent) :
    finishEvent p rest (withTracking s k) = withTracking (finishEvent p rest s) (trackThrough p.writes k) := by
  rw [finishEvent_eq, finishEvent_eq]
  rfl

theorem performHead_withTracking {t : State} {fail : Bool} (h : performHead fail s = .next t) :
    ∃ k', performHead fail (withTracking s k) = .next (withTracking t k') := by
  obtain ⟨⟨e, ws⟩, rest, hp, hcase⟩ := performHead_cases h
  have hpk : (withTracking s k).pend = ⟨e, ws⟩ :: rest := hp
  obtain ⟨rfl, rfl⟩ | ⟨l, m, rfl, ⟨rfl, rfl⟩ | ⟨rfl, rfl⟩⟩ := hcase
  · exact ⟨trackThrough ws k, by simp [performHead, hpk, finishEvent_withTracking]⟩
  · exact ⟨trackThrough ws k, by simp [performHead, hpk, issueModeSet_withTracking, finishEvent_withTracking]⟩
  · exact ⟨k, by simp [performHead, hpk, raiseGpioError_withTracking]⟩

end

/-- Settles O40: each kind of step does the same from other tracking registers. -/
theorem trackingRegistersGateNothing : Obligations.TrackingRegistersGateNothing := by
  intro s t k h
  change ∃ k', step (withTracking s k) = .next (withTracking t k')
  obtain ⟨hr, rfl⟩ | ⟨hr, ⟨ht, rfl⟩ | ⟨ht, hrun⟩⟩ := step_cases h
  · exact ⟨Tracking.reset, step_of_reset (s := withTracking s k) hr⟩
  · exact ⟨k, step_of_termination (s := withTracking s k) hr ht⟩
  · have running : Running (withTracking s k) := ⟨hr, ht⟩
    obtain ⟨hl, rfl⟩ | ⟨hl, hc, rfl⟩ | ⟨hl, w, hc, hw⟩ | ⟨hl, hp⟩ | ⟨hl, rfl⟩ | ⟨hl, rfl⟩ := hrun
    · exact ⟨k, (step_of_uninit running hl).trans (congrArg _ (initialise_withTracking (beginStep s) k _))⟩
    · exact ⟨k, step_of_no_command running hl hc⟩
    · rw [runWord_eq] at hw
      obtain ⟨k', hk'⟩ := perform_withTracking (beginStep s) k (replyToWord (beginStep s) w)
      have hreply := replyToWord_withTracking (beginStep s) k w
      refine ⟨k', (step_of_command running hl hc).trans ?_⟩
      change runWord w (withTracking (beginStep s) k) = _
      rw [runWord_eq, hreply, hk', Host.Outcome.next.inj hw]
    · obtain ⟨k', hk'⟩ := performHead_withTracking (beginStep s) k hp
      exact ⟨k', (step_of_busy running hl).trans hk'⟩
    · exact ⟨k, step_of_faulted running hl⟩
    · exact ⟨k, step_of_terminated running hl⟩

/-! ### `SEQ` is written by `setSegments` only (R22) -/

/-- Accepting an operation that does not write `SEQ` leaves it, and no write to it pending. -/
theorem accept_keeps_seq {acts : List Action} {s : State} (hr : s.ready = true)
    (h : ∀ q, Attached.track (.setSeq q) ∉ writesOf acts) :
    (accept acts s).tracking.seq = s.tracking.seq ∧
      ∀ p ∈ (accept acts s).pend, ∀ q, Attached.track (.setSeq q) ∉ p.writes := by
  rw [writesOf_eq_compile] at h
  rw [accept_of_ready hr]
  exact ⟨trackThrough_seq (fun q hq => h q (List.mem_append_left _ hq)) _,
    fun p hp q hq => h q (List.mem_append_right _ (List.mem_flatMap.mpr ⟨p, hp, hq⟩))⟩

theorem LineOperation.not_setSeq {acts : List Action} (h : LineOperation acts) (q : SeqState) :
    Attached.track (.setSeq q) ∉ writesOf acts :=
  fun hq => absurd (List.all_eq_true.mp h.framerWrites _ hq) (by simp [isFramerWrite])

/-- Settles O56: the writes of every operation but `setSegments` are the framer's. -/
theorem onlySetSegmentsWritesSeq : Obligations.OnlySetSegmentsWritesSeq := by
  intro i s t h hi hr
  rw [exec_eq] at h
  obtain rfl := Host.Outcome.next.inj h
  cases ha : reply s i with
  | answered o =>
    have hp : s.pend = [] := ((ready_iff s).mp hr).2
    exact ⟨rfl, by simp [Reply.perform, hp]⟩
  | accepted acts =>
    refine accept_keeps_seq hr fun q => ?_
    obtain rfl | ⟨fs, hfs, rfl⟩ | ⟨pos, len, f, rfl, -⟩ := reply_accepted_cases ha
    · exact nofun
    · simpa [forgetDisplay] using hfs.not_setSeq q
    · exact absurd rfl (hi pos len f)

/-! ### Steps that answer, and steps of the command port -/

/-- Settles O57: the one fault needs a running operation with nothing pending. -/
theorem everyStepOfASoundStateAnswers : Obligations.EveryStepOfASoundStateAnswers := by
  intro s hs
  cases hr : s.inputs.rstN
  · exact ⟨_, step_of_reset hr⟩
  cases ht : s.inputs.term
  case true => exact ⟨_, step_of_termination hr ht⟩
  have running : Running s := ⟨hr, ht⟩
  cases hl : s.life with
  | uninit => exact ⟨_, step_of_uninit running hl⟩
  | faulted => exact ⟨_, step_of_faulted running hl⟩
  | terminated => exact ⟨_, step_of_terminated running hl⟩
  | ready =>
    cases hc : s.inputs.cmd with
    | none => exact ⟨_, step_of_no_command running hl hc⟩
    | some w => exact ⟨_, (step_of_command running hl hc).trans (runWord_eq w _)⟩
  | busy =>
    obtain ⟨⟨e, ws⟩, rest, hp⟩ := List.exists_cons_of_ne_nil (hs.busyIffPending.mp hl)
    rw [step_of_busy running hl]
    cases e <;> cases s.inputs.gpioFail <;> simp [performHead, hp]

theorem runWord_of_decode {w : CodeWord} {i : Instr} (h : decode w = .ok i) (s : State) : runWord w s = exec i s := by
  simp [runWord, h]

/-- Settles O15: the command port of a ready block, and `runWord` on a word that decodes. -/
theorem stepRunsTheDecodedInstruction : Obligations.StepRunsTheDecodedInstruction :=
  fun s _ _ hl hrun hc hd => (step_of_command hrun hl hc).trans (runWord_of_decode hd (beginStep s))

theorem decode_of_decodeTableWord {nbits w : Nat} {i : Instr} (h : decodeTableWord nbits w = some i) :
    decode (codeWordOf nbits w) = .ok i := by
  unfold decodeTableWord at h
  split at h
  · cases h
    assumption
  · exact nomatch h

/-- Placing a word touches neither the trace nor the lines nor the tracking registers. -/
theorem presentWord_keeps (w : CodeWord) (s : State) :
    (presentWord w s).trace = s.trace ∧ (∀ l, (presentWord w s).mode l = s.mode l) ∧
      (presentWord w s).tracking = s.tracking := by
  unfold presentWord
  split <;> exact ⟨rfl, fun _ => rfl, rfl⟩

/-- Settles O16: the step after `withFetchWord` consumes the placed word and nothing of the script. -/
theorem placedWordIsRunNext : Obligations.PlacedWordIsRunNext := by
  intro s nbits w i h
  have hd := decode_of_decodeTableWord h
  exact ⟨beginStep (s.withFetchWord nbits w),
    (step_of_command ⟨rfl, rfl⟩ rfl rfl).trans (runWord_of_decode hd _), rfl, rfl,
    presentWord_keeps (codeWordOf nbits w) s⟩

/-- Settles O18: accepted or answered, a reply has no effect on a block that is not ready. -/
theorem noInstructionIsTakenUnlessReady : Obligations.NoInstructionIsTakenUnlessReady :=
  fun i s h => (exec_eq i s).trans (congrArg _ (perform_of_not_ready h _))

/-! ### The pads and the reset state -/

/-- Settles O42, mode by mode. -/
theorem padsArePulledLowOrReleased : Obligations.PadsArePulledLowOrReleased := by
  refine fun s l pull => ⟨fun h => ?_, fun h => ?_⟩ <;> simp [State.outputEnable, h, Mode.code, lineLevel]

/-- Settles O49: each register of the reset state, evaluated. -/
theorem resetStateHasTheStatedValues : Obligations.ResetStateHasTheStatedValues :=
  ⟨rfl, rfl, rfl, rfl, rfl, rfl, rfl, rfl, rfl, rfl⟩

end Sys2Proof.Proofs
end

section
/-! PROOFS. An undisturbed run of an operation, and the tracking registers in the middle of a byte. -/

namespace Sys2Proof.Proofs

open Sys2Proof.Machine Sys2Proof.Safety

/-! ### Calm runs -/

theorem calm_of_le {m n : Nat} {s : State} (hmn : m ≤ n) (h : Calm n s) : Calm m s :=
  fun x hx => h x (List.take_subset_take_left _ hmn hx)

theorem calm_tail {n : Nat} {s t : State} (ht : t.script = s.script.tail) (h : Calm (n + 1) s) : Calm n t := by
  intro x hx
  rw [ht] at hx
  refine h x ?_
  cases hs : s.script with
  | nil => simp [hs] at hx
  | cons y ys => exact List.mem_cons_of_mem y (by simpa [hs] using hx)

/-- The inputs of the first step of a calm run. -/
theorem calm_inputs {n : Nat} {s : State} (h : Calm (n + 1) s) : Running s ∧ s.inputs.gpioFail = false := by
  unfold Running State.inputs
  cases hs : s.script with
  | nil => exact ⟨⟨rfl, rfl⟩, rfl⟩
  | cons x xs =>
    obtain ⟨hr, ht, hf⟩ := h x (by simp [hs])
    exact ⟨⟨hr, ht⟩, hf⟩

theorem step_of_calm_busy {n : Nat} {s : State} (h : Calm (n + 1) s) (hl : s.life = .busy) {p : PendingEvent}
    {rest : List PendingEvent} (hp : s.pend = p :: rest) :
    step s = .next (finishEvent p rest (issueEvent p.event (beginStep s))) := by
  obtain ⟨running, hf⟩ := calm_inputs h
  rw [step_of_busy running hl, hf]
  exact performHead_succeeds hp

/-- `t` is `s` after the first `k` pending events have been performed (R19). -/
structure Performed (k : Nat) (s t : State) : Prop where
  trace : t.trace = s.trace ++ (pendingEvents s).take k
  pend : t.pend = s.pend.drop k
  mode : ∀ l, t.mode l = modeAfter l (s.mode l) ((pendingEvents s).take k)
  life : t.life = if k = 0 then s.life else if (s.pend.drop k).isEmpty then .ready else .busy
  tracking : t.tracking = trackingAtEnd (s.pend.take k) s.tracking
  display : t.display = displayAtEnd (s.pend.take k) s.display
  script : t.script = s.script.drop k
  bright : t.bright = s.bright
  fcause : t.fcause = s.fcause
  pinId : ∀ l, t.pinId l = s.pinId l
  rom : t.segromHigh = s.segromHigh
  platform : t.platform = s.platform
  freeCount : t.freeCount = s.freeCount

theorem Performed.refl (s : State) : Performed 0 s s where
  trace := (List.append_nil _).symm
  pend := rfl
  mode _ := rfl
  life := rfl
  tracking := rfl
  display := rfl
  script := rfl
  bright := rfl
  fcause := rfl
  pinId _ := rfl
  rom := rfl
  platform := rfl
  freeCount := rfl

/-- One event, then `k` more. -/
theorem Performed.cons {k : Nat} {s t : State} {p : PendingEvent} {rest : List PendingEvent}
    (hp : s.pend = p :: rest) (h : Performed k (finishEvent p rest (issueEvent p.event (beginStep s))) t) :
    Performed (k + 1) s t where
  trace := by simp [h.trace, pendingEvents, hp]
  pend := by simp [h.pend, hp]
  mode l := by
    rw [h.mode l, pendingEvents, pendingEvents, hp, List.map_cons, List.take_succ_cons, modeAfter_cons]
    simp
  life := by
    rw [h.life, hp]
    cases k <;> simp
  tracking := by simp [h.tracking, hp, trackingAtEnd]
  display := by simp [h.display, hp, displayAtEnd]
  script := by simp [h.script]
  bright := by simp [h.bright]
  fcause := by simp [h.fcause]
  pinId l := by simp [h.pinId]
  rom := by simp [h.rom]
  platform := by simp [h.platform]
  freeCount := by simp [h.freeCount]

theorem run_succ_of_next {k : Nat} {s t : State} (h : step s = .next t) :
    Host.Core.run core (k + 1) s = Host.Core.run core k t := by
  have first : core.step s = .next t := h
  simp only [Host.Core.run, first]

/-- A calm run performs one event a step. -/
theorem run_performs {k : Nat} {s : State} (hl : 0 < k → s.life = .busy) (hk : k ≤ s.pend.length) (hc : Calm k s) :
    ∃ t : State, Host.Core.run core k s = .next t ∧ Performed k s t := by
  induction k generalizing s with
  | zero => exact ⟨s, rfl, Performed.refl s⟩
  | succ k ih =>
    obtain ⟨p, rest, hp⟩ := List.exists_cons_of_length_pos (Nat.lt_of_lt_of_le k.succ_pos hk)
    rw [hp, List.length_cons, Nat.add_le_add_iff_right] at hk
    have busy : 0 < k → (finishEvent p rest (issueEvent p.event (beginStep s))).life = .busy := fun h0 => by
      cases rest with
      | nil => exact absurd hk (by simpa using h0.ne')
      | cons _ _ => rfl
    obtain ⟨t, hrun, ht⟩ := ih busy hk (calm_tail (by simp) hc)
    refine ⟨t, ?_, ht.cons hp⟩
    rw [run_succ_of_next (step_of_calm_busy hc (hl k.succ_pos) hp)]
    exact hrun

/-- Settles O43: the run performs the first `k` events, and `LIFE` is `READY` when `PEND` is then empty. -/
theorem eventsAreEmittedInOrder : Obligations.EventsAreEmittedInOrder := by
  intro s k hl hk hc
  obtain ⟨t, hrun, ht⟩ := run_performs (fun _ => hl) hk hc
  refine ⟨t, hrun, ht.trace, ht.pend, ht.mode, ?_, ht.script, ht.bright, ht.fcause, ht.pinId⟩
  have last : (s.pend.drop k).isEmpty = true ↔ k = s.pend.length := by
    rw [List.isEmpty_iff, List.drop_eq_nil_iff]
    omega
  simp only [ht.life, hl, last]
  rcases k.eq_zero_or_pos with rfl | hpos
  · simp
  · simp [hpos, hpos.ne']

/-! ### The bit slots of a byte (R51, R83) -/

/-- The tracking registers after `k` more bits of a byte. -/
def shiftedBy (k : Nat) (t : Tracking) : Tracking :=
  { t with shift := t.shift >>> k, bitcnt := t.bitcnt + BitVec.ofNat 4 k }

theorem shiftedBy_succ (k : Nat) (t : Tracking) :
    shiftedBy k (TrackWrite.shiftBit.apply t) = shiftedBy (k + 1) t := by
  simp [shiftedBy, TrackWrite.apply, BitVec.shiftRight_add, Nat.add_comm k 1, BitVec.ofNat_add, BitVec.add_assoc]

/-- Nothing in the bit loop stands before its first event, if nothing does in what follows it. -/
theorem compile_bitLoop_writes (v : Byte) (i n : Nat) {after : List Action} (h : (compile after).1 = []) :
    (compile (bitLoop v i n ++ after)).1 = [] := by
  cases n with
  | zero => exact h
  | succ n => rfl

/-- A shift is attached to the last event of each bit slot, and there is no other write. -/
theorem trackingAtEnd_bitLoop (v : Byte) {k n : Nat} (i : Nat) (hk : k ≤ n) {after : List Action}
    (h : (compile after).1 = []) (t : Tracking) :
    trackingAtEnd ((compile (bitLoop v i n ++ after)).2.take (6 * k)) t = shiftedBy k t := by
  induction k generalizing i n t with
  | zero => simp [trackingAtEnd, shiftedBy]
  | succ k ih =>
    obtain ⟨n, rfl⟩ : ∃ m, n = m + 1 := ⟨n - 1, by omega⟩
    have hrest := compile_bitLoop_writes v (i + 1) n h
    rw [show 6 * (k + 1) = 6 * k + 1 + 1 + 1 + 1 + 1 + 1 by omega, ← shiftedBy_succ, ← ih (n := n) (i + 1) (by omega)]
    simp [bitLoop, bitSlot, pair, compile, trackingAtEnd, trackThrough, hrest]

/-- A ready block that takes `writeByte(v)` has the byte loaded and its frame pending (R83). -/
theorem accept_writeByte {s t : State} (hr : s.ready = true) {v : Byte}
    (ht : accept (forgetDisplay :: writeByteActions v) s = t) :
    t.pend = (compile (bitLoop v 0 8 ++ (ackSlot ++ [setTxn .byteSent]))).2 ∧ t.life = .busy ∧
      t.script = s.script ∧ t.trace = s.trace ∧
      t.tracking = { s.tracking with shift := v, bitcnt := 0#4 } := by
  rw [← ht, accept_of_ready hr]
  exact ⟨rfl, rfl, rfl, rfl, rfl⟩

/-- Settles O27: the run performs the events in order, and the shifts attached to them follow the bit slots. -/
theorem registersTrackTheBitSlots : Obligations.RegistersTrackTheBitSlots := by
  intro v s t k hr hk hc h
  have ht : accept (forgetDisplay :: writeByteActions v) s = t :=
    Host.Outcome.next.inj ((exec_eq (.wrbyte v) s).symm.trans h)
  obtain ⟨hpend, hlife, hscript, htrace, htracking⟩ := accept_writeByte hr ht
  have hevents : pendingEvents t = byteFrameEvents v := by
    rw [pendingEvents, hpend, compile_events]
    rfl
  have hlength : t.pend.length = 54 := by
    rw [hpend, compile_length]
    rfl
  have hcalm : Calm (6 * k) t := by
    rw [Calm, hscript]
    exact calm_of_le (by omega) hc
  obtain ⟨u, hrun, hu⟩ := run_performs (fun _ => hlife) (by omega) hcalm
  have hbits : u.tracking = shiftedBy k { s.tracking with shift := v, bitcnt := 0#4 } := by
    rw [hu.tracking, hpend, htracking, trackingAtEnd_bitLoop v 0 hk rfl]
  refine ⟨u, hrun, by rw [hbits]; rfl, ?_, by rw [hbits]; rfl, ?_, ?_⟩
  · rw [hbits]
    simp only [shiftedBy, BitVec.zero_add, BitVec.toNat_ofNat]
    omega
  · rw [hu.trace, htrace, hevents]
  · rw [← hevents, pendingEvents, pendingEvents, hu.pend, List.map_drop]

end Sys2Proof.Proofs
end

section
/-! PROOFS. What is known of the display after an operation: nothing after one that moves a line directly, the written
positions after an update; and no step depends on it. -/

namespace Sys2Proof.Proofs

open Sys2Proof.Machine Sys2Proof.Safety

/-! ### An accepted operation, run to its end (R19) -/

/-- An undisturbed run performs an accepted operation to its end. -/
theorem run_accepted {acts : List Action} {s : State} (hr : s.ready = true) (hc : Calm (emitted acts).length s) :
    ∃ u : State, Host.Core.run core (emitted acts).length (accept acts s) = .next u ∧
      Performed (emitted acts).length (accept acts s) u := by
  have hpend : (accept acts s).pend.length = (emitted acts).length := by rw [accept_pend hr, compile_length]
  refine run_performs (fun hpos => ?_) hpend.ge ?_
  · have hne : emitted acts ≠ [] := List.ne_nil_of_length_pos hpos
    rw [accept_life hr, if_neg (mt (compile_isEmpty_iff acts).mp hne)]
  · rw [accept_of_ready hr]
    exact hc

/-- The display has then gone through all writes of the operation. -/
theorem Performed.display_of_accepted {acts : List Action} {s u : State} (hr : s.ready = true)
    (h : Performed (emitted acts).length (accept acts s) u) : u.display = displayThrough (writesOf acts) s.display := by
  rw [h.display, accept_of_ready hr, ← compile_length, List.take_length, displayAtEnd_compile]

/-! ### An operation that moves a line, issued directly (U3, U6) -/

/-- Accepting one makes the display unknown at once: the framer's writes say nothing about it. -/
theorem accept_forgetDisplay_display {fs : List Action} (hfs : LineOperation fs) {s : State} (hr : s.ready = true) :
    (accept (forgetDisplay :: fs) s).display = .unknown := by
  have hframer := hfs.framerWrites
  rw [writesOf_eq_compile, List.all_append, Bool.and_eq_true] at hframer
  rw [accept_of_ready hr]
  exact displayThrough_framer hframer.1 .unknown

/-- Settles O36: each of these instructions is accepted as `forgetDisplay` and an operation that moves a line. -/
theorem directFramingLeavesTheDisplayUnknown : Obligations.DirectFramingLeavesTheDisplayUnknown := by
  intro i s t hr h hi
  obtain rfl := Host.Outcome.next.inj ((exec_eq i s).symm.trans h)
  obtain ⟨fs, hfs, ha⟩ : ∃ fs, LineOperation fs ∧ reply s i = .accepted (forgetDisplay :: fs) := by
    obtain ⟨l, rfl⟩ | ⟨l, rfl⟩ | rfl | rfl | ⟨v, rfl⟩ | rfl | ⟨p, hp, rfl⟩ | ⟨b, rfl⟩ | ⟨aux, pat, rfl⟩ := hi
    · exact ⟨_, .driveLow l, rfl⟩
    · exact ⟨_, .release l, rfl⟩
    · exact ⟨_, .start, rfl⟩
    · exact ⟨_, .stop, rfl⟩
    · exact ⟨_, .writeByte v, rfl⟩
    · exact ⟨_, .writeByte _, rfl⟩
    · exact ⟨_, .writeByte _, if_pos (Nat.lt_succ_of_le hp)⟩
    · exact ⟨_, .writeByte _, rfl⟩
    · exact ⟨_, .writeByte _, rfl⟩
  rw [ha, Reply.perform, accept_forgetDisplay_display hfs hr]
  exact ⟨rfl, rfl, rfl, fun _ => rfl⟩

/-! ### The events of an update, counted (R97, R101) -/

theorem emitted_writeByte_length (v : Byte) : (emitted (writeByteActions v)).length = 54 := rfl

theorem emitted_payload_length (segs : List Byte) : (emitted (payloadActions segs)).length = 54 * segs.length := by
  induction segs with
  | nil => rfl
  | cons v rest ih =>
    simp only [payloadActions, emitted_append, List.length_append, emitted_writeByte_length, ih, List.length_cons]
    simp only [emitted, List.length_nil]
    omega

theorem emitted_setSegments_length (bright : BitVec 4) (linesIdle : Bool) (pos : BitVec 3) (segs : List Byte) :
    (emitted (setSegmentsActions bright linesIdle pos segs)).length = 186 + 54 * segs.length := by
  have hstart : (emitted startActions).length = 2 := rfl
  have hstop : (emitted stopActions).length = 6 := rfl
  simp only [setSegmentsActions, transaction1, transaction2, transaction3, emitted_append, List.length_append,
    emitted_writeByte_length, emitted_payload_length, hstart, hstop]
  simp only [emitted, setSeq, List.length_nil]
  omega

/-! ### The display through an update (R38) -/

theorem payload_framerWrites (segs : List Byte) : (writesOf (payloadActions segs)).all isFramerWrite = true := by
  induction segs with
  | nil => rfl
  | cons v rest ih =>
    simp only [payloadActions, writesOf_append, List.all_append, (LineOperation.writeByte v).framerWrites, ih]
    rfl

theorem oneByteTransaction_framerWrites (v : Byte) :
    (writesOf (startActions ++ writeByteActions v ++ stopActions)).all isFramerWrite = true := by
  simp only [writesOf_append, List.all_append, LineOperation.start.framerWrites,
    (LineOperation.writeByte v).framerWrites, LineOperation.stop.framerWrites, Bool.and_self]

theorem transaction1_framerWrites : (writesOf transaction1).all isFramerWrite = true :=
  oneByteTransaction_framerWrites modeSelectByte

theorem transaction3_framerWrites (bright : BitVec 4) : (writesOf (transaction3 bright)).all isFramerWrite = true :=
  oneByteTransaction_framerWrites (displayControlByte bright)

theorem transaction2_framerWrites (pos : BitVec 3) (segs : List Byte) :
    (writesOf (transaction2 pos segs)).all isFramerWrite = true := by
  simp only [transaction2, writesOf_append, List.all_append, LineOperation.start.framerWrites,
    (LineOperation.writeByte _).framerWrites, payload_framerWrites, LineOperation.stop.framerWrites]
  rfl

/-- An update makes four writes at the display: at its beginning, and one at the end of each transaction. -/
theorem displayThrough_setSegments (bright : BitVec 4) (linesIdle : Bool) (pos : BitVec 3) (segs : List Byte)
    (d : Display) :
    displayThrough (writesOf (setSegmentsActions bright linesIdle pos segs)) d =
      (DisplayWrite.setControl bright).apply ((DisplayWrite.writeDigits pos.toNat segs).apply
        (DisplayWrite.selectAutoIncrement.apply
          ((DisplayWrite.beginUpdate pos.toNat segs.length linesIdle).apply d))) := by
  simp only [setSegmentsActions, writesOf_append, displayThrough_append,
    displayThrough_framer transaction1_framerWrites, displayThrough_framer (transaction2_framerWrites _ _),
    displayThrough_framer (transaction3_framerWrites _)]
  rfl

/-- An update that begins in step and with both lines released makes its positions known (R38). -/
theorem displayThrough_setSegments_inStep (bright : BitVec 4) (pos : BitVec 3) (segs : List Byte) {d : Display}
    (h : d.inStep = true) :
    displayThrough (writesOf (setSegmentsActions bright true pos segs)) d =
      { inStep := true
        autoIncrement := true
        digits := Memory.writeList (Memory.forgetRange d.digits pos.toNat segs.length) pos.toNat segs
        control := some bright } := by
  rw [displayThrough_setSegments]
  simp [DisplayWrite.apply, h]

/-! ### A legal `SETSEG` (R92) -/

theorem rangeLegal_iff (pos len : BitVec 3) :
    rangeLegal pos len = true ↔ pos.toNat < 6 ∧ len.toNat ≤ 6 ∧ pos.toNat + len.toNat ≤ 6 := by
  simp only [rangeLegal, Bool.and_eq_true, decide_eq_true_eq, and_assoc]
  rfl

theorem argumentCheck_of_rangeLegal {pos len : BitVec 3} (h : rangeLegal pos len = true) :
    argumentCheck pos len = none := by
  obtain ⟨hpos, hlen, hsum⟩ := (rangeLegal_iff pos len).mp h
  rw [argumentCheck, if_neg (by omega), if_neg (by omega), if_neg (by omega)]

theorem exec_setseg_of_rangeLegal {pos len : BitVec 3} (h : rangeLegal pos len = true) (f : SegFields) (s : State) :
    exec (.setseg pos len f) s =
      .next (accept (setSegmentsActions s.bright s.linesIdle pos (segmentsOperand len f)) s) := by
  rw [exec, execSetseg, argumentCheck_of_rangeLegal h]

theorem segmentsOperand_length {len : BitVec 3} (h : len.toNat ≤ 6) (f : SegFields) :
    (segmentsOperand len f).length = len.toNat :=
  List.length_take_of_le h

/-- A legal update is accepted, and undisturbed it completes with the display through its writes. -/
theorem setseg_completes_display {pos len : BitVec 3} (hl : rangeLegal pos len = true) (f : SegFields) {s : State}
    (hr : s.ready = true) (hc : Calm (186 + 54 * len.toNat) s) :
    ∃ t u : State, exec (.setseg pos len f) s = .next t ∧
      Host.Core.run core (186 + 54 * len.toNat) t = .next u ∧
      u.display = displayThrough
        (writesOf (setSegmentsActions s.bright s.linesIdle pos (segmentsOperand len f))) s.display := by
  obtain ⟨-, hlen, -⟩ := (rangeLegal_iff pos len).mp hl
  have hcount := emitted_setSegments_length s.bright s.linesIdle pos (segmentsOperand len f)
  rw [segmentsOperand_length hlen] at hcount
  rw [← hcount] at hc ⊢
  obtain ⟨u, hrun, hu⟩ := run_accepted hr hc
  exact ⟨_, u, exec_setseg_of_rangeLegal hl f s, hrun, hu.display_of_accepted hr⟩

/-- Settles O29: the update forgets its positions and then writes them; the reads are those of the `DISP` memory. -/
theorem updateWritesItsPositionsOnly : Obligations.UpdateWritesItsPositionsOnly := by
  intro pos len f s hl hr hstep hclk hdio _ hc
  obtain ⟨t, u, hexec, hrun, hu⟩ := setseg_completes_display hl f hr hc
  have hidle : s.linesIdle = true := by simp [State.linesIdle, hclk, hdio]
  rw [hidle, displayThrough_setSegments_inStep _ _ _ hstep] at hu
  obtain ⟨-, hlen, hsum⟩ := (rangeLegal_iff pos len).mp hl
  have hcount := segmentsOperand_length hlen f
  refine ⟨t, u, hexec, hrun, fun k hk => ?_, fun a ha => ?_, ?_, ?_, ?_⟩ <;> rw [hu]
  · exact Memory.read_writeList_inside _ _ _ (hcount.symm ▸ hk) (hcount.symm ▸ hsum)
  · rw [← hcount] at ha
    rw [Memory.read_writeList_outside _ _ _ ha, Memory.read_forgetRange_outside _ _ _ ha]

/-! ### The display influences no step (R38, R117) -/

/-- The state `s` with other knowledge of the display. -/
def withDisplay (s : State) (d : Display) : State := { s with display := d }

section
variable (s : State) (d : Display)

theorem perform_withDisplay (r : Reply) : ∃ d', r.perform (withDisplay s d) = withDisplay (r.perform s) d' := by
  cases hr : s.ready with
  | false =>
    have hd : (withDisplay s d).ready = false := hr
    exact ⟨d, by rw [perform_of_not_ready hr, perform_of_not_ready hd]; rfl⟩
  | true =>
    have hd : (withDisplay s d).ready = true := hr
    cases r with
    | answered o => exact ⟨d, rfl⟩
    | accepted acts => exact ⟨_, by rw [Reply.perform, Reply.perform, accept_of_ready hr, accept_of_ready hd]; rfl⟩

theorem runWord_withDisplay {t : State} {w : CodeWord} (h : runWord w s = .next t) :
    ∃ d', runWord w (withDisplay s d) = .next (withDisplay t d') := by
  have hreply : replyToWord (withDisplay s d) w = replyToWord s w := by
    unfold replyToWord
    cases decode w with
    | ok i => cases i <;> rfl
    | error e => rfl
  rw [runWord_eq] at h ⊢
  obtain rfl := Host.Outcome.next.inj h
  obtain ⟨d', hd'⟩ := perform_withDisplay s d (replyToWord s w)
  exact ⟨d', by rw [hreply, hd']⟩

theorem initialise_withDisplay (p : PlatformInputs) :
    ∃ d', initialise p (withDisplay s d) = withDisplay (initialise p s) d' := by
  unfold initialise
  cases startupCheck p with
  | none => exact ⟨_, rfl⟩
  | some cause => exact ⟨_, rfl⟩

theorem finishEvent_withDisplay (p : PendingEvent) (rest : List PendingEvent) :
    ∃ d', finishEvent p rest (withDisplay s d) = withDisplay (finishEvent p rest s) d' :=
  ⟨_, by rw [finishEvent_eq, finishEvent_eq]; rfl⟩

theorem issueModeSet_withDisplay (l : Line) (m : Mode) :
    issueModeSet l m (withDisplay s d) = withDisplay (issueModeSet l m s) d := by
  cases l <;> rfl

theorem raiseGpioError_withDisplay (l : Line) (m : Mode) :
    ∃ d', raiseGpioError l m (withDisplay s d) = withDisplay (raiseGpioError l m s) d' := by
  cases l <;> exact ⟨_, rfl⟩

theorem performHead_withDisplay {t : State} {fail : Bool} (h : performHead fail s = .next t) :
    ∃ d', performHead fail (withDisplay s d) = .next (withDisplay t d') := by
  obtain ⟨⟨e, ws⟩, rest, hp, hcase⟩ := performHead_cases h
  have hpd : (withDisplay s d).pend = ⟨e, ws⟩ :: rest := hp
  obtain ⟨rfl, rfl⟩ | ⟨l, m, rfl, ⟨rfl, rfl⟩ | ⟨rfl, rfl⟩⟩ := hcase
  · obtain ⟨d', hd'⟩ := finishEvent_withDisplay s d ⟨.settle, ws⟩ rest
    exact ⟨d', by simp [performHead, hpd, hd']⟩
  · obtain ⟨d', hd'⟩ := finishEvent_withDisplay (issueModeSet l m s) d ⟨.modeSet l m, ws⟩ rest
    exact ⟨d', by simp [performHead, hpd, issueModeSet_withDisplay, hd']⟩
  · obtain ⟨d', hd'⟩ := raiseGpioError_withDisplay s d l m
    exact ⟨d', by simp [performHead, hpd, hd']⟩

end

/-- Settles O41: each kind of step does the same from other knowledge of the display. -/
theorem displayHasNoInfluence : Obligations.DisplayHasNoInfluence := by
  intro s t d h
  change ∃ d', step (withDisplay s d) = .next (withDisplay t d')
  obtain ⟨hr, rfl⟩ | ⟨hr, ⟨ht, rfl⟩ | ⟨ht, hrun⟩⟩ := step_cases h
  · exact ⟨_, step_of_reset (s := withDisplay s d) hr⟩
  · exact ⟨_, step_of_termination (s := withDisplay s d) hr ht⟩
  · have running : Running (withDisplay s d) := ⟨hr, ht⟩
    obtain ⟨hl, rfl⟩ | ⟨hl, hc, rfl⟩ | ⟨hl, w, hc, hw⟩ | ⟨hl, hp⟩ | ⟨hl, rfl⟩ | ⟨hl, rfl⟩ := hrun
    · obtain ⟨d', hd'⟩ := initialise_withDisplay (beginStep s) d s.configPorts
      exact ⟨d', (step_of_uninit running hl).trans (congrArg _ hd')⟩
    · exact ⟨d, step_of_no_command running hl hc⟩
    · obtain ⟨d', hd'⟩ := runWord_withDisplay (beginStep s) d hw
      exact ⟨d', (step_of_command running hl hc).trans hd'⟩
    · obtain ⟨d', hd'⟩ := performHead_withDisplay (beginStep s) d hp
      exact ⟨d', (step_of_busy running hl).trans hd'⟩
    · exact ⟨d, step_of_faulted running hl⟩
    · exact ⟨d, step_of_terminated running hl⟩

end Sys2Proof.Proofs
end

section
/-! PROOFS. The encodings: the fields of a command word, the rows of R60, and that the decoder and the encoder are
inverse to each other. -/

namespace Sys2Proof.Proofs

open Sys2Proof.Machine Sys2Proof.Safety Sys2Proof.Laws

/-! ### The fields of a command word (R59) -/

theorem placeField_extract_same {n lo : Nat} (v : BitVec n) (h : lo + n ≤ 64) :
    (placeField v lo).extractLsb' lo n = v := by
  ext i hi
  have h64 : lo + i < 64 := by omega
  simp [placeField, h64, BitVec.getLsbD_eq_getElem hi]

theorem placeField_extract_disjoint {n lo lo' m : Nat} (v : BitVec n) (h : lo + n ≤ lo' ∨ lo' + m ≤ lo) :
    (placeField v lo).extractLsb' lo' m = 0#m := by
  ext i hi
  by_cases hlo : lo' + i < lo
  · simp [placeField, hlo]
  · simp [placeField, BitVec.getLsbD_of_ge v (lo' + i - lo) (by omega)]

/-- A field of a word, back at its place, is what the field's mask leaves of the word. -/
theorem placeField_extractLsb' (w : CmdWord) (lo n : Nat) :
    placeField (w.extractLsb' lo n) lo = w &&& placeField (BitVec.allOnes n) lo := by
  ext i hi
  by_cases hlo : i < lo
  · simp [placeField, hlo]
  · simp [placeField, hi, hlo, show lo + (i - lo) = i by omega, Bool.and_comm]

/-- Where a mask is set, a word that matches under the mask has the bits of the match. -/
theorem extract_of_and_eq {n lo len : Nat} {v mask pattern : BitVec n} (h : v &&& mask = pattern)
    (hm : mask.extractLsb' lo len = BitVec.allOnes len) : v.extractLsb' lo len = pattern.extractLsb' lo len := by
  rw [← h, BitVec.extractLsb'_and, hm, BitVec.and_allOnes]

theorem ofBool_getLsbD {n : Nat} (v : BitVec n) (k : Nat) : BitVec.ofBool (v.getLsbD k) = v.extractLsb' k 1 := by
  ext i hi
  obtain rfl : i = 0 := by omega
  simp

/-! ### The rows of R60 -/

theorem selects_iff (r : HostRow) (w : CmdWord) : r.selects w = true ↔ w &&& r.mask = r.pattern := by
  simp [HostRow.selects]

/-- A word that selects a row is the row's pattern and the word's own operand bits. -/
theorem word_of_selects {r : HostRow} {w : CmdWord} (h : r.selects w = true) :
    w = r.pattern ||| (w &&& ~~~r.mask) := by
  rw [← (selects_iff r w).mp h, ← BitVec.and_or_distrib_left, BitVec.or_not_self, BitVec.and_allOnes]

/-- Every row fixes the four bits of `OP`. -/
theorem opField_of_selects {r : HostRow} {w : CmdWord} (hr : r ∈ hostTable) (h : r.selects w = true) :
    opField w = opField r.pattern := by
  have hmask : ∀ r ∈ hostTable, r.mask.extractLsb' 60 4 = BitVec.allOnes 4 := by decide
  exact extract_of_and_eq ((selects_iff r w).mp h) (hmask r hr)

theorem not_selects_of_opField {r : HostRow} {w : CmdWord} (hr : r ∈ hostTable)
    (h : opField w ≠ opField r.pattern) : r.selects w = false :=
  Bool.eq_false_iff.mpr fun hs => h (opField_of_selects hr hs)

/-- No word selects two rows: they differ in `OP`. -/
theorem row_unique {r r' : HostRow} {w : CmdWord} (hr : r ∈ hostTable) (hr' : r' ∈ hostTable)
    (h : r.selects w = true) (h' : r'.selects w = true) : r = r' := by
  have hop : ∀ r ∈ hostTable, ∀ r' ∈ hostTable, opField r.pattern = opField r'.pattern → r = r' := by decide
  exact hop r hr r' hr' ((opField_of_selects hr h).symm.trans (opField_of_selects hr' h'))

/-! ### What the decoder answers (R60 to R63) -/

/-- The rows of R60, each with the instruction it makes of the fields of the word `w`. -/
def rowInstrs (w : CmdWord) : List (HostRow × Instr) :=
  [(rowDrvlow, .drvlow (lineField w)), (rowRelease, .release (lineField w)), (rowSettle, .settle),
    (rowStart, .start), (rowStop, .stop), (rowWrbyte, .wrbyte (w.extractLsb' 0 8)),
    (rowSetseg, .setseg (w.extractLsb' 56 3) (w.extractLsb' 52 3) (segFields w)),
    (rowLookup, .lookup (w.extractLsb' 0 4))]

theorem mem_hostTable_of_mem_rowInstrs {w : CmdWord} {r : HostRow} {i : Instr} (h : (r, i) ∈ rowInstrs w) :
    r ∈ hostTable :=
  List.mem_map_of_mem (f := Prod.fst) h

theorem mem_rowInstrs_unique {w : CmdWord} {r : HostRow} {i j : Instr} (hi : (r, i) ∈ rowInstrs w)
    (hj : (r, j) ∈ rowInstrs w) : i = j := by
  have hkeys : ((rowInstrs w).map Prod.fst).Nodup := show hostTable.Nodup by decide
  exact congrArg Prod.snd (List.inj_on_of_nodup_map hkeys hi hj rfl)

/-- The decoder takes the first row the word selects. -/
theorem decodeHost_eq_find (w : CmdWord) :
    decodeHost w =
      ((rowInstrs w).find? (fun p => p.1.selects w)).elim (.error (hostRejection w)) (fun p => .ok p.2) := by
  unfold decodeHost rowInstrs
  repeat' split
  all_goals simp [List.find?, *]

/-- A word decodes to the instruction of the row it selects, and to nothing else. -/
theorem decodeHost_eq_ok_iff (w : CmdWord) (i : Instr) :
    decodeHost w = .ok i ↔ ∃ r, (r, i) ∈ rowInstrs w ∧ r.selects w = true := by
  rw [decodeHost_eq_find]
  cases hf : (rowInstrs w).find? (fun p => p.1.selects w) with
  | none =>
    have hnone := List.find?_eq_none.mp hf
    exact ⟨nofun, fun ⟨r, hr, hs⟩ => absurd hs (hnone _ hr)⟩
  | some p =>
    have hp : p ∈ rowInstrs w := List.mem_of_find?_eq_some hf
    have hps : p.1.selects w = true := by simpa using List.find?_some hf
    refine ⟨fun h => ⟨p.1, by cases h; exact hp, hps⟩, fun ⟨r, hr, hs⟩ => ?_⟩
    obtain rfl : r = p.1 :=
      row_unique (mem_hostTable_of_mem_rowInstrs hr) (mem_hostTable_of_mem_rowInstrs hp) hs hps
    rw [mem_rowInstrs_unique hr hp]
    rfl

/-- A word that selects no row is rejected, by the name R63 gives. -/
theorem decodeHost_of_no_row {w : CmdWord} (h : ∀ r ∈ hostTable, r.selects w = false) :
    decodeHost w = .error (hostRejection w) := by
  have hf : (rowInstrs w).find? (fun p => p.1.selects w) = none :=
    List.find?_eq_none.mpr fun ⟨r, i⟩ hp => by simp [h r (mem_hostTable_of_mem_rowInstrs hp)]
  rw [decodeHost_eq_find, hf]
  rfl

/-! ### The wire bytes (R55 to R58) -/

theorem decodeWire_addressSelect (p : BitVec 3) :
    decodeWire .command (0b11000#5 ++ p) = .ok (.wireAddressSelect p) := by
  revert p
  decide

theorem decodeWire_displayControl (b : BitVec 4) :
    decodeWire .command (0x8#4 ++ b) = .ok (.wireDisplayControl b) := by
  revert b
  decide

theorem decodeWire_segmentByte (aux : Bool) (pat : BitVec 7) :
    decodeWire .payload (segmentByte aux pat) = .ok (.wireSegment aux pat) := by
  have haux : (segmentByte aux pat).getLsbD 7 = aux := by
    rw [segmentByte, BitVec.getLsbD_append]
    simp
  have hpat : (segmentByte aux pat).extractLsb' 0 7 = pat := BitVec.extractLsb'_append_eq_right
  rw [decodeWire, haux, hpat]

/-! ### Decoding an encoded instruction -/

/-- The encoding of a host command selects the command's own row, and decodes to what that row makes of it. -/
theorem decode_encode_of_mem {i : Instr} {r : HostRow} {w : CmdWord} (hown : SelectsOwnRow.Statement i)
    (hw : encode i = .host w) (hr : hostRowOf i = some r) (hmem : (r, i) ∈ rowInstrs w) :
    decode (encode i) = .ok i := by
  rw [SelectsOwnRow.Statement, hw, hr] at hown
  obtain ⟨_, hown, -, hs⟩ := hown
  obtain rfl := Option.some.inj hown
  rw [hw]
  exact (decodeHost_eq_ok_iff w i).mpr ⟨r, hmem, hs⟩

/-- The fields of a `SETSEG` word are those it was made of (R62). -/
theorem setsegWord_fields (pos len : BitVec 3) (f : SegFields) :
    (setsegWord pos len f).extractLsb' 56 3 = pos ∧ (setsegWord pos len f).extractLsb' 52 3 = len ∧
      segFields (setsegWord pos len f) = f := by
  simp [setsegWord, segFields, BitVec.extractLsb'_or, placeField_extract_same, placeField_extract_disjoint]

/-- Settles O3: a host command's word selects the command's own row, whose fields are disjoint; a wire byte has its own
format. -/
theorem decodeOfEncodeIsIdentity : Obligations.DecodeOfEncodeIsIdentity := by
  intro i
  cases i with
  | drvlow l => cases l <;> rfl
  | release l => cases l <;> rfl
  | settle => rfl
  | start => rfl
  | stop => rfl
  | wrbyte v =>
    exact decode_encode_of_mem (SelectsOwnRow.wrbyte v) rfl rfl
      (by simp [rowInstrs, BitVec.extractLsb'_or, placeField_extract_same])
  | setseg pos len f =>
    obtain ⟨hpos, hlen, hf⟩ := setsegWord_fields pos len f
    exact decode_encode_of_mem (SelectsOwnRow.setseg pos len f) rfl rfl (by simp [rowInstrs, hpos, hlen, hf])
  | lookup d =>
    exact decode_encode_of_mem (SelectsOwnRow.lookup d) rfl rfl
      (by simp [rowInstrs, BitVec.extractLsb'_or, placeField_extract_same])
  | wireModeSelect => rfl
  | wireAddressSelect p => exact decodeWire_addressSelect p
  | wireDisplayControl b => exact decodeWire_displayControl b
  | wireSegment aux pat => exact decodeWire_segmentByte aux pat

/-! ### Encoding a decoded word -/

/-- A word is encoded again from its row's pattern and the fields that fill the bits the row's mask leaves open. -/
theorem pattern_or_fields {r : HostRow} {w fields : CmdWord} (h : r.selects w = true)
    (hf : fields = w &&& ~~~r.mask) : r.pattern ||| fields = w := by
  rw [hf, ← word_of_selects h]

theorem placeField_lineBit (w : CmdWord) : placeField (lineBit (lineField w)) 0 = w &&& 1#64 := by
  have hbit : lineBit (lineField w) = w.extractLsb' 0 1 := by
    rw [← ofBool_getLsbD, lineField]
    cases w.getLsbD 0 <;> rfl
  rw [hbit, placeField_extractLsb']
  rfl

/-- The word of a `SETSEG` instruction that a word decodes to. -/
theorem setsegWord_of_selects {w : CmdWord} (h : rowSetseg.selects w = true) :
    setsegWord (w.extractLsb' 56 3) (w.extractLsb' 52 3) (segFields w) = w := by
  rw [setsegWord]
  simp only [segFields, placeField_extractLsb', BitVec.or_assoc, ← BitVec.and_or_distrib_left]
  exact pattern_or_fields h rfl

theorem encode_of_decodeHost {w : CmdWord} {i : Instr} (h : decodeHost w = .ok i) : encode i = .host w := by
  obtain ⟨r, hmem, hs⟩ := (decodeHost_eq_ok_iff w i).mp h
  simp only [rowInstrs, List.mem_cons, Prod.mk.injEq, List.not_mem_nil, or_false] at hmem
  obtain ⟨rfl, rfl⟩ | ⟨rfl, rfl⟩ | ⟨rfl, rfl⟩ | ⟨rfl, rfl⟩ | ⟨rfl, rfl⟩ | ⟨rfl, rfl⟩ | ⟨rfl, rfl⟩ | ⟨rfl, rfl⟩ := hmem
  · exact congrArg _ (pattern_or_fields hs (placeField_lineBit w))
  · exact congrArg _ (pattern_or_fields hs (placeField_lineBit w))
  · exact congrArg _ ((word_of_selects hs).trans (by simp [rowSettle])).symm
  · exact congrArg _ ((word_of_selects hs).trans (by simp [rowStart])).symm
  · exact congrArg _ ((word_of_selects hs).trans (by simp [rowStop])).symm
  · exact congrArg _ (pattern_or_fields hs (placeField_extractLsb' w 0 8))
  · exact congrArg _ (setsegWord_of_selects hs)
  · exact congrArg _ (pattern_or_fields hs (placeField_extractLsb' w 0 4))

theorem encode_of_decodeWire {pos : WirePos} {v : Byte} {i : Instr} (h : decodeWire pos v = .ok i) :
    encode i = .wire pos v := by
  cases pos with
  | payload =>
    obtain rfl := Except.ok.inj h
    rw [encode, segmentByte, ofBool_getLsbD, BitVec.extractLsb'_append_extractLsb' (w := 1) (len := 7)]
  | command =>
    rw [decodeWire] at h
    split_ifs at h with h1 h2 h3 <;> obtain rfl := Except.ok.inj h
    · rw [beq_iff_eq.mp h1]; rfl
    · have hhigh : v.extractLsb' 3 5 = 0b11000#5 := extract_of_and_eq (beq_iff_eq.mp h2) rfl
      rw [encode, ← hhigh, BitVec.extractLsb'_append_extractLsb' (w := 5) (len := 3)]
    · have hhigh : v.extractLsb' 4 4 = 0x8#4 := extract_of_and_eq (beq_iff_eq.mp h3) rfl
      rw [encode, ← hhigh, BitVec.extractLsb'_append_extractLsb' (w := 4) (len := 4)]

/-- Settles O4: the fields of a row fill the bits its mask leaves open, so nothing of the word is lost. -/
theorem decodedWordIsItsEncoding : Obligations.DecodedWordIsItsEncoding := by
  intro w i h
  cases w with
  | host w => exact encode_of_decodeHost h
  | wire pos v => exact encode_of_decodeWire h

/-! ### The table of R60, and the words it rejects -/

/-- Settles O1: each row's words decode to what the row makes of their fields, and the rows differ in `OP`, which is
1 to 8 in each. -/
theorem hostWordSelectsItsRow : Obligations.HostWordSelectsItsRow := by
  have hassigned : ∀ r ∈ hostTable, ¬ (opField r.pattern = 0#4 ∨ 9#4 ≤ opField r.pattern) := by decide
  have hdecode : ∀ {w : CmdWord} {r : HostRow} {i : Instr}, (r, i) ∈ rowInstrs w → r.selects w = true →
      decodeHost w = .ok i := fun hmem hs => (decodeHost_eq_ok_iff _ _).mpr ⟨_, hmem, hs⟩
  refine ⟨rfl, selects_iff, fun w r hr r' hr' => row_unique hr hr', fun w hop r hr => ?_, fun w => ?_⟩
  · exact not_selects_of_opField hr fun heq => hassigned r hr (heq ▸ hop)
  · exact ⟨hdecode (by simp [rowInstrs, lineField]), hdecode (by simp [rowInstrs, lineField]),
      hdecode (by simp [rowInstrs]), hdecode (by simp [rowInstrs]), hdecode (by simp [rowInstrs]),
      hdecode (by simp [rowInstrs]), fun hs => ⟨segFields w, hdecode (by simp [rowInstrs]) hs⟩,
      hdecode (by simp [rowInstrs])⟩

/-- The `SETSEG` row: operation 7, and the reserved bits 59, 55 and 51:48 zero (R60, R62). -/
theorem rowSetseg_selects_iff (w : CmdWord) :
    rowSetseg.selects w = true ↔
      w.extractLsb' 60 4 = 7#4 ∧ w.getLsbD 59 = false ∧ w.getLsbD 55 = false ∧ w.extractLsb' 48 4 = 0#4 := by
  have hbit : ∀ k, w.getLsbD k = false ↔ w.extractLsb' k 1 = 0#1 := fun k => by
    rw [← ofBool_getLsbD]
    cases w.getLsbD k <;> decide
  rw [selects_iff, hbit, hbit]
  refine ⟨fun h => ?_, fun ⟨hop, h59, h55, h48⟩ => ?_⟩
  · exact ⟨extract_of_and_eq h rfl, extract_of_and_eq h rfl, extract_of_and_eq h rfl, extract_of_and_eq h rfl⟩
  · have hmask : rowSetseg.mask = placeField (BitVec.allOnes 4) 60 ||| (placeField (BitVec.allOnes 1) 59 |||
        (placeField (BitVec.allOnes 1) 55 ||| placeField (BitVec.allOnes 4) 48)) := rfl
    rw [hmask, BitVec.and_or_distrib_left, BitVec.and_or_distrib_left, BitVec.and_or_distrib_left,
      ← placeField_extractLsb', ← placeField_extractLsb', ← placeField_extractLsb', ← placeField_extractLsb', hop, h59,
      h55, h48]
    rfl

theorem decodeHost_of_setseg {w : CmdWord} (h : rowSetseg.selects w = true) :
    decodeHost w = .ok (.setseg (w.extractLsb' 56 3) (w.extractLsb' 52 3) (segFields w)) :=
  (decodeHost_eq_ok_iff w _).mpr ⟨rowSetseg, by simp [rowInstrs], h⟩

/-- A word of operation 7 that is no `SETSEG` has a reserved bit set (R63). -/
theorem decodeHost_of_op7_reserved {w : CmdWord} (hop : opField w = 7#4) (h : rowSetseg.selects w = false) :
    decodeHost w = .error .reservedBits := by
  have hrow : ∀ r ∈ hostTable, opField r.pattern = 7#4 → r = rowSetseg := by decide
  have hno : ∀ r ∈ hostTable, r.selects w = false := by
    intro r hr
    by_cases h7 : opField r.pattern = 7#4
    · rwa [hrow r hr h7]
    · exact not_selects_of_opField hr fun heq => h7 (heq ▸ hop)
  rw [decodeHost_of_no_row hno, hostRejection, hop]
  rfl

/-- `SEGk` is bits `8k+7:8k` of the word. -/
theorem segFieldList_segFields (w : CmdWord) {k : Nat} (hk : k < 6) :
    (segFieldList (segFields w))[k]? = some (w.extractLsb' (8 * k) 8) := by
  interval_cases k <;> rfl

/-- Settles O2: the `SETSEG` row alone has operation 7; the operation reads the operand list and not the fields. -/
theorem setsegOperandsFromItsFields : Obligations.SetsegOperandsFromItsFields := by
  refine ⟨fun w hop h59 h55 h48 => ?_, fun w hop hres => ?_, fun len f hlen => segmentsOperand_length hlen f,
    fun pos len f g s hfg => ?_, ⟨_, rfl, rfl⟩, ⟨_, rfl, rfl⟩⟩
  · refine ⟨_, decodeHost_of_setseg ((rowSetseg_selects_iff w).mpr ⟨hop, h59, h55, h48⟩), fun k hk hlen => ?_⟩
    rw [segmentsOperand, List.getElem?_take_of_lt hlen, segFieldList_segFields w hk]
  · refine decodeHost_of_op7_reserved hop (Bool.eq_false_iff.mpr fun hs => ?_)
    obtain ⟨-, h59, h55, h48⟩ := (rowSetseg_selects_iff w).mp hs
    rw [h59, h55, h48] at hres
    exact absurd hres (by decide)
  · rw [exec, exec, execSetseg, execSetseg, hfg]

/-- Settles O5: the ten words, evaluated. -/
theorem specWordsDecode : Obligations.SpecWordsDecode :=
  ⟨rfl, rfl, rfl, rfl, rfl, rfl, rfl, rfl, rfl, rfl⟩

end Sys2Proof.Proofs
end

section
/-! PROOFS. An accepted operation run undisturbed to its end: the output pulses and the whole state. -/

namespace Sys2Proof.Proofs

open Sys2Proof.Machine Sys2Proof.Safety

/-! ### The output pulses of a running operation (R26, R74, R75) -/

/-- The call an event makes on the GPIO port (R74, R75). -/
def gpioCallOf (s : State) : Event → Option GpioCall
  | .settle => none
  | .modeSet l m => some ⟨s.pinId l, m⟩

theorem issueEvent_beginStep_out (e : Event) (s : State) :
    (issueEvent e (beginStep s)).out = ⟨false, none, gpioCallOf s e⟩ := by
  cases e with
  | settle => rfl
  | modeSet l m => simp [issueEvent, gpioCallOf, PortOutputs.quiet]

theorem gpioCallOf_congr {s t : State} (h : ∀ l, t.pinId l = s.pinId l) (e : Event) :
    gpioCallOf t e = gpioCallOf s e := by
  cases e <;> simp [gpioCallOf, h]

/-- The output pulses after `k + 1` events of a calm run are those of the last of them. -/
theorem run_out {k : Nat} {s u : State} {e : Event} (hl : s.life = .busy) (he : (pendingEvents s)[k]? = some e)
    (hc : Calm (k + 1) s) (h : Host.Core.run core (k + 1) s = .next u) :
    u.out = ⟨(s.pend.drop (k + 1)).isEmpty, none, gpioCallOf s e⟩ := by
  induction k generalizing s with
  | zero =>
    obtain ⟨p, rest, hp⟩ : ∃ p rest, s.pend = p :: rest := by
      cases hp : s.pend with
      | nil => simp [pendingEvents, hp] at he
      | cons p rest => exact ⟨p, rest, rfl⟩
    obtain rfl : p.event = e := by simpa [pendingEvents, hp] using he
    rw [run_succ_of_next (step_of_calm_busy hc hl hp)] at h
    obtain rfl := Host.Outcome.next.inj h
    rw [finishEvent_out, issueEvent_beginStep_out, hp]
    rfl
  | succ k ih =>
    obtain ⟨p, q, rest, hp⟩ : ∃ p q rest, s.pend = p :: q :: rest := by
      rcases hp : s.pend with _ | ⟨p, _ | ⟨q, rest⟩⟩
      · simp [pendingEvents, hp] at he
      · simp [pendingEvents, hp] at he
      · exact ⟨p, q, rest, rfl⟩
    rw [run_succ_of_next (step_of_calm_busy hc hl hp)] at h
    rw [ih rfl (by simpa [pendingEvents, hp] using he) (calm_tail (by simp) hc) h, hp,
      gpioCallOf_congr (s := s) (by simp)]
    rfl

/-! ### The whole state at the end of an accepted operation (R19) -/

section
variable (acts : List Action) (s : State)

@[simp] theorem accept_pinId (l : Line) : (accept acts s).pinId l = s.pinId l := by
  cases l <;> simp [State.pinId]

@[simp] theorem accept_script : (accept acts s).script = s.script := by
  unfold accept; split <;> simp [notAccepted]

@[simp] theorem accept_freeCount : (accept acts s).freeCount = s.freeCount := by
  unfold accept; split <;> simp [notAccepted]

end

section
variable {acts : List Action} {s u : State} (hr : s.ready = true)
include hr

theorem pendingEvents_accept : pendingEvents (accept acts s) = emitted acts := by
  rw [pendingEvents, accept_pend hr, compile_events]

theorem accept_pend_drop_all : (accept acts s).pend.drop (emitted acts).length = [] := by
  rw [accept_pend hr, ← compile_length, List.drop_length]

/-- The tracking registers have then gone through all writes of the operation. -/
theorem Performed.tracking_of_accepted (h : Performed (emitted acts).length (accept acts s) u) :
    u.tracking = trackThrough (writesOf acts) s.tracking := by
  rw [h.tracking, accept_of_ready hr, ← compile_length, List.take_length, trackingAtEnd_compile]

/-- The ports then show `done` and the call of the last event. -/
theorem run_accepted_out {e : Event} (he : (emitted acts).getLast? = some e) (hc : Calm (emitted acts).length s)
    (hrun : Host.Core.run core (emitted acts).length (accept acts s) = .next u) :
    u.out = ⟨true, none, gpioCallOf s e⟩ := by
  obtain ⟨k, hk⟩ : ∃ k, (emitted acts).length = k + 1 :=
    Nat.exists_eq_add_one.mpr (List.length_pos_of_mem (List.mem_of_getLast? he))
  have hbusy : (accept acts s).life = .busy := by
    rw [accept_life hr, if_neg (mt (compile_isEmpty_iff acts).mp (List.ne_nil_of_length_eq_add_one hk))]
  have hlast : (pendingEvents (accept acts s))[k]? = some e := by
    rw [pendingEvents_accept hr, ← he, List.getLast?_eq_getElem?, hk, Nat.add_sub_cancel]
  have hcalm : Calm (k + 1) (accept acts s) := by rwa [Calm, accept_script, ← hk]
  rw [run_out hbusy hlast hcalm (hk ▸ hrun), ← hk, accept_pend_drop_all hr, gpioCallOf_congr (accept_pinId acts s)]
  rfl

/-- An accepted operation, run undisturbed to its end, has emitted its events and made its writes; the block is ready
again, and every other register is as it was. -/
theorem run_to_completion {e : Event} (he : (emitted acts).getLast? = some e) (hc : Calm (emitted acts).length s) :
    Host.Core.run core (emitted acts).length (accept acts s) = .next { s with
      modeClk := modeAfter .clk s.modeClk (emitted acts)
      modeDio := modeAfter .dio s.modeDio (emitted acts)
      tracking := trackThrough (writesOf acts) s.tracking
      display := displayThrough (writesOf acts) s.display
      trace := s.trace ++ emitted acts
      script := s.script.drop (emitted acts).length
      out := ⟨true, none, gpioCallOf s e⟩ } := by
  obtain ⟨hlife, hpend⟩ := (ready_iff s).mp hr
  have hne : (emitted acts).length ≠ 0 := (List.length_pos_of_mem (List.mem_of_getLast? he)).ne'
  obtain ⟨u, hrun, hu⟩ := run_accepted hr hc
  have hmode : ∀ l, u.mode l = modeAfter l (s.mode l) (emitted acts) := fun l => by
    rw [hu.mode, pendingEvents_accept hr, List.take_length, accept_mode]
  have hpin : ∀ l, u.pinId l = s.pinId l := fun l => (hu.pinId l).trans (accept_pinId acts s l)
  have hlife' : u.life = s.life := by
    rw [hu.life, if_neg hne, accept_pend_drop_all hr, hlife]
    rfl
  have hpend' : u.pend = s.pend := by rw [hu.pend, accept_pend_drop_all hr, hpend]
  have htrace : u.trace = s.trace ++ emitted acts := by
    rw [hu.trace, pendingEvents_accept hr, List.take_length, accept_trace]
  have hscript : u.script = s.script.drop (emitted acts).length := by rw [hu.script, accept_script]
  rw [hrun]
  exact congrArg _ ((State.mk.injEq ..).mpr ⟨hmode .clk, hmode .dio, hpin .clk, hpin .dio,
    hu.bright.trans (accept_bright acts s), hu.tracking_of_accepted hr, hpend', hlife',
    hu.fcause.trans (accept_fcause acts s), htrace, hu.rom.trans (accept_segromHigh acts s),
    hu.display_of_accepted hr, hu.platform.trans (accept_platform acts s), hscript, run_accepted_out hr he hc hrun,
    hu.freeCount.trans (accept_freeCount acts s)⟩)

end

end Sys2Proof.Proofs
end

section
/-! PROOFS. The wire formats: the command bytes, the byte frame and the transaction frame with their counts, and the
wire bytes as instructions. -/

namespace Sys2Proof.Proofs

open Sys2Proof.Machine Sys2Proof.Safety

/-! ### The command bytes (R55 to R57, R98) -/

/-- Settles O6: the operand's bits and the constant's do not meet, so the addition has no carry. -/
theorem commandBytesMatchTheirPatterns : Obligations.CommandBytesMatchTheirPatterns := by
  have haddress : ∀ p : BitVec 3, addressSelectByte p = 0b11000#5 ++ p := by decide
  have hcontrol : ∀ b : BitVec 4, displayControlByte b = 0b1000#4 ++ b := by decide
  refine ⟨rfl, fun p hp => ⟨haddress p, ?_, ?_⟩, fun b => ⟨hcontrol b, ?_, ?_⟩⟩
  · have hp8 := p.isLt
    simp only [addressSelectByte]
    bv_omega
  · rw [haddress, encode]
  · have hb := b.isLt
    simp only [displayControlByte]
    bv_omega
  · rw [hcontrol, encode]

/-! ### The byte frame (R51 to R53) -/

theorem emitted_bitSlot (b : Bool) : emitted (bitSlot b) = bitSlotEvents b := rfl

/-- The bit loop emits the slots of its bits in rising order. -/
theorem emitted_bitLoop (v : Byte) (i n : Nat) :
    emitted (bitLoop v i n) = (List.range' i n).flatMap (fun k => bitSlotEvents (v.getLsbD k)) := by
  induction n generalizing i with
  | zero => rfl
  | succ n ih => simp [bitLoop, emitted_bitSlot, emitted, ih, List.range'_succ]

theorem emitted_writeByte (v : Byte) : emitted (writeByteActions v) = byteFrameEvents v := by
  simp only [writeByteActions, emitted_append, emitted_bitLoop, byteFrameEvents, List.range_eq_range']
  simp [emitted, ackSlot, pair, ackSlotEvents, setTxn]

theorem byteFrameEvents_length (v : Byte) : (byteFrameEvents v).length = 54 := rfl

/-- A bit picks the mode of one mode-set, and no event's kind. -/
theorem byteFrameEvents_modeSetCount (v : Byte) : modeSetCount (byteFrameEvents v) = 27 := rfl

theorem byteFrameEvents_settleCount (v : Byte) : settleCount (byteFrameEvents v) = 27 := rfl

/-- Settles O7: the frame written out slot by slot, and its counts. -/
theorem byteFrameIsEightSlotsAndAcknowledgement : Obligations.ByteFrameIsEightSlotsAndAcknowledgement := by
  intro v
  refine ⟨?_, emitted_writeByte v, byteFrameEvents_length v, byteFrameEvents_modeSetCount v,
    byteFrameEvents_settleCount v⟩
  rw [emitted_writeByte, byteFrameEvents]
  simp [List.range_succ]

/-! ### The transaction frame (R54, R87) -/

/-- A property that is counted event by event, in a transaction whose bytes have `c` each. -/
theorem countP_transactionEvents (f : Event → Bool) {c : Nat}
    (hbyte : ∀ v, (byteFrameEvents v).countP f = c) (bytes : List Byte) :
    (transactionEvents bytes).countP f = startEvents.countP f + stopEvents.countP f + c * bytes.length := by
  have hbytes : (bytes.flatMap byteFrameEvents).countP f = c * bytes.length := by
    simp [List.countP_flatMap, Function.comp_def, hbyte, Nat.mul_comm]
  rw [transactionEvents, List.countP_append, List.countP_append, hbytes]
  omega

/-- Settles O8: events, mode-sets and settles are each counted byte by byte. -/
theorem transactionEventCounts : Obligations.TransactionEventCounts := by
  intro bytes
  have hsettles : settleCount (transactionEvents bytes) = 4 + 27 * bytes.length :=
    countP_transactionEvents isSettle byteFrameEvents_settleCount bytes
  refine ⟨?_, countP_transactionEvents isModeSet byteFrameEvents_modeSetCount bytes, hsettles, ?_⟩
  · rw [← List.countP_true]
    exact countP_transactionEvents _ (fun _ => rfl) bytes
  · rw [leastDuration, hsettles]

/-! ### `writeByte` (R53, R83) -/

theorem trackThrough_bitLoop (v : Byte) (i n : Nat) (t : Tracking) :
    trackThrough (writesOf (bitLoop v i n)) t = shiftedBy n t := by
  induction n generalizing i t with
  | zero => simp [bitLoop, trackThrough, shiftedBy]
  | succ n ih => simp [bitLoop, bitSlot, pair, trackThrough, ih, shiftedBy_succ]

/-- After a byte `SHIFT` is 0, `BITCNT` is 8 and `TXN` is `BYTE_SENT` (R83). -/
theorem trackThrough_writeByte (v : Byte) (t : Tracking) :
    trackThrough (writesOf (writeByteActions v)) t = { t with shift := 0#8, bitcnt := 8#4, txn := .byteSent } := by
  simp only [writeByteActions, writesOf_append, trackThrough_append, trackThrough_bitLoop]
  simp [shiftedBy, ackSlot, pair, setTxn, trackThrough, TrackWrite.apply, BitVec.ushiftRight_eq_zero]

/-- A byte frame ends with the clock low (R52). -/
theorem modeAfter_clk_byteFrame (v : Byte) (m : Mode) : modeAfter .clk m (byteFrameEvents v) = .output := rfl

/-- A byte frame leaves bit 7 on the data line (R51). -/
theorem modeAfter_dio_byteFrame (v : Byte) (m : Mode) :
    modeAfter .dio m (byteFrameEvents v) = bitMode (v.getLsbD 7) := rfl

/-- A `writeByte` issued directly, run undisturbed to its end. -/
theorem run_writeByte (v : Byte) {s : State} (hr : s.ready = true) (hc : Calm 54 s) :
    Host.Core.run core 54 (accept (forgetDisplay :: writeByteActions v) s) = .next { s with
      modeClk := .output
      modeDio := bitMode (v.getLsbD 7)
      tracking := { s.tracking with shift := 0#8, bitcnt := 8#4, txn := .byteSent }
      trace := s.trace ++ byteFrameEvents v
      display := .unknown
      script := s.script.drop 54
      out := ⟨true, none, none⟩ } := by
  have hevents : emitted (forgetDisplay :: writeByteActions v) = byteFrameEvents v := emitted_writeByte v
  have hrun := run_to_completion (acts := forgetDisplay :: writeByteActions v) (e := .settle) hr
    (by rw [hevents]; rfl) (by rwa [hevents])
  have hdisplay : displayThrough (writesOf (forgetDisplay :: writeByteActions v)) s.display = .unknown :=
    displayThrough_framer (LineOperation.writeByte v).framerWrites .unknown
  have htracking : trackThrough (writesOf (forgetDisplay :: writeByteActions v)) s.tracking =
      { s.tracking with shift := 0#8, bitcnt := 8#4, txn := .byteSent } := trackThrough_writeByte v s.tracking
  rw [hevents, modeAfter_clk_byteFrame, modeAfter_dio_byteFrame, hdisplay, htracking] at hrun
  exact hrun

/-- A ready block takes a `writeByte` issued directly with its frame pending. -/
theorem accepted_writeByte (v : Byte) {s : State} (hr : s.ready = true) :
    Accepted s (accept (forgetDisplay :: writeByteActions v) s) (byteFrameEvents v) := by
  have hpend := (pendingEvents_accept (acts := forgetDisplay :: writeByteActions v) hr).trans (emitted_writeByte v)
  rw [accept_of_ready hr] at hpend ⊢
  exact ⟨hpend, rfl, rfl, fun _ => rfl, fun _ => rfl, rfl, rfl, rfl, rfl, rfl, rfl, rfl, rfl, rfl, rfl⟩

/-! ### The wire bytes as instructions (R55 to R58, R64) -/

/-- Settles O34: each wire byte is accepted with the actions of `writeByte` of its byte, and run as they are. -/
theorem wireBytesAreSentAsFrames : Obligations.WireBytesAreSentAsFrames := by
  intro i v s hr hi
  have hreply : reply s i = .accepted (forgetDisplay :: writeByteActions v) := by
    obtain ⟨rfl, rfl⟩ | ⟨p, hp, rfl, rfl⟩ | ⟨b, rfl, rfl⟩ | ⟨aux, pat, rfl, rfl⟩ := hi
    · rfl
    · exact if_pos (Nat.lt_succ_of_le hp)
    · rfl
    · rfl
  have hexec : exec i s = .next (accept (forgetDisplay :: writeByteActions v) s) := by
    rw [exec_eq, hreply, Reply.perform]
  obtain ⟨-, -, -, -, htracking⟩ := accept_writeByte hr rfl
  exact ⟨_, hexec, hexec, accepted_writeByte v hr, htracking, run_writeByte v hr⟩

/-- Settles O35: the address-select byte is refused, and a refusal writes the response only. -/
theorem addressesSixAndSevenAreNotEmitted : Obligations.AddressesSixAndSevenAreNotEmitted := by
  intro p s hp hr
  have hillegal : ¬ p.toNat < Config.numDigits := Nat.not_lt.mpr hp
  rw [exec, execWireAddressSelect, if_neg hillegal, rejectIllegal, reject_ready hr]

end Sys2Proof.Proofs
end

section
/-! PROOFS. The line driver: one event of a running operation, and `driveLow`, `release` and `settle` as instructions. -/

namespace Sys2Proof.Proofs

open Sys2Proof.Machine Sys2Proof.Safety

/-! ### One step of a running operation (R19, R74, R75, R114) -/

section
variable {s : State} (hl : s.life = .busy)
include hl

/-- A running operation looks at the reset, the termination and the answer of the GPIO subsystem, and at no other
input. -/
theorem step_of_life_busy :
    step s = if s.inputs.rstN = false then .next (hardwareReset (beginStep s))
      else if s.inputs.term then .next (terminate (beginStep s))
      else performHead s.inputs.gpioFail (beginStep s) := by
  simp [step, cycle, hl]

/-- A settle cannot fail, and a mode-set whose call does not fail is performed. -/
theorem step_performs_head {p : PendingEvent} {rest : List PendingEvent} (hrun : Running s)
    (hp : s.pend = p :: rest) (hok : p.event = .settle ∨ s.inputs.gpioFail = false) :
    step s = .next (finishEvent p rest (issueEvent p.event (beginStep s))) := by
  rw [step_of_busy hrun hl]
  rcases hok with he | hf
  · simp [performHead, issueEvent, hp, he]
  · rw [hf]
    exact performHead_succeeds hp

/-- A mode-set whose call fails: the line has its old mode or the requested one, and the event is not recorded. -/
theorem step_fails_modeSet {l : Line} {m : Mode} {ws : List Attached} {rest : List PendingEvent} (hrun : Running s)
    (hp : s.pend = ⟨.modeSet l m, ws⟩ :: rest) (hf : s.inputs.gpioFail = true) :
    ∃ x, (x = s.mode l ∨ x = m) ∧ step s = .next { s.setMode l x with
      pend := []
      life := .faulted
      fcause := .gpioError
      display := .unknown
      script := s.script.tail
      out := ⟨false, some ⟨.gpioError, 0#8⟩, some ⟨s.pinId l, m⟩⟩
      freeCount := s.freeCount + 1 } := by
  obtain ⟨x, hx, hfail⟩ := raiseGpioError_mode l m (beginStep s)
  have hcut : displayAfterCut (beginStep s) = .unknown := displayAfterCut_of_pending (by simp [hp])
  have hhead : performHead true (beginStep s) = .next (raiseGpioError l m (beginStep s)) := by simp [performHead, hp]
  refine ⟨x, hx, ?_⟩
  rw [step_of_busy hrun hl, hf, hhead, hfail, hcut]
  cases l <;> rfl

end

/-- The output pulses of a performed event: its call, and `done` when nothing is left (R26). -/
theorem finishEvent_issueEvent_out (p : PendingEvent) (rest : List PendingEvent) (s : State) :
    (finishEvent p rest (issueEvent p.event (beginStep s))).out =
      ⟨decide (rest = []), none, gpioCallOf s p.event⟩ := by
  rw [finishEvent_out, issueEvent_beginStep_out]
  cases rest <;> rfl

/-- Settles O19: the command port is none of the inputs a running operation looks at. -/
theorem runningOperationIgnoresCommands : Obligations.RunningOperationIgnoresCommands := by
  intro s x rest c hl
  have looks (ports : List PortInputs) := step_of_life_busy (s := { s with script := ports }) hl
  exact (looks ({ x with cmd := c } :: rest)).trans (looks (x :: rest)).symm

/-- A performed event is recorded, makes its attached writes and issues its call, and the operation completes when
nothing is left; every register but the modes is otherwise as it was. -/
theorem performed_head {s : State} {p : PendingEvent} {rest : List PendingEvent} (hp : s.pend = p :: rest) :
    let t := finishEvent p rest (issueEvent p.event (beginStep s))
    t.trace = s.trace ++ [p.event] ∧ t.pend = rest ∧ t.life = (if rest = [] then .ready else .busy) ∧
      t.out = ⟨decide (rest = []), none, gpioCallOf s p.event⟩ ∧ t.tracking = trackThrough p.writes s.tracking ∧
      t.bright = s.bright ∧ t.fcause = s.fcause ∧ (∀ l, t.pinId l = s.pinId l) ∧ t.freeCount = s.freeCount := by
  have ht := (Performed.refl _).cons hp
  refine ⟨?_, rfl, ?_, finishEvent_issueEvent_out p rest s, ?_, ht.bright, ht.fcause, ht.pinId, ht.freeCount⟩
  · simp
  · simp
  · simp

/-- Settles O37: the mode-set is performed, and sets the mode of its own line. -/
theorem modeSetEventIsPerformedAndRecorded : Obligations.ModeSetEventIsPerformedAndRecorded := by
  intro s l m ws rest hl hp hrun hf
  refine ⟨_, step_performs_head hl hrun hp (.inr hf), ?_, fun k hk => ?_, performed_head hp⟩
  · simp [modeAfter]
  · simp [modeAfter, hk.symm]

/-- Settles O38: the settle is performed whatever the GPIO subsystem says, and sets no mode. -/
theorem settleEventIsRecorded : Obligations.SettleEventIsRecorded := by
  intro s ws rest hl hp hrun
  refine ⟨_, step_performs_head hl hrun hp (.inl rfl), fun k => ?_, performed_head hp⟩
  simp [modeAfter]

/-! ### Operations of one event (R71 to R73) -/

@[simp] theorem accept_inputs (acts : List Action) (s : State) : (accept acts s).inputs = s.inputs := by
  simp [State.inputs]

theorem accept_running {acts : List Action} {s : State} (h : Running s) : Running (accept acts s) := by
  rwa [Running, accept_inputs]

section
variable {s : State} (hr : s.ready = true)
include hr

theorem accept_busy {acts : List Action} (hne : emitted acts ≠ []) : (accept acts s).life = .busy := by
  rw [accept_ready hr hne]

/-- Accepting an operation leaves everything but `PEND`, `LIFE`, the response and the display as it is, when no tracking
write stands before its first event. -/
theorem accepted_of_ready {acts : List Action} (hne : emitted acts ≠ [])
    (htrack : trackThrough (compile acts).1 s.tracking = s.tracking) :
    Accepted s (accept acts s) (emitted acts) ∧ (accept acts s).tracking = s.tracking := by
  have hpend : pendingEvents (accept acts s) = emitted acts := pendingEvents_accept hr
  rw [accept_ready hr hne, htrack] at hpend ⊢
  exact ⟨⟨hpend, rfl, rfl, fun _ => rfl, fun _ => rfl, rfl, rfl, rfl, rfl, rfl, rfl, rfl, rfl, rfl, rfl⟩, rfl⟩

/-- A mode-set issued directly, run undisturbed to its end. -/
theorem run_modeSet (l : Line) (m : Mode) (hc : Calm 1 s) :
    Host.Core.run core 1 (accept [forgetDisplay, .emit (.modeSet l m)] s) = .next { s.setMode l m with
      trace := s.trace ++ [.modeSet l m]
      display := .unknown
      script := s.script.tail
      out := ⟨true, none, some ⟨s.pinId l, m⟩⟩ } := by
  refine (run_to_completion (acts := [forgetDisplay, .emit (.modeSet l m)]) hr rfl hc).trans ?_
  rw [← List.drop_one]
  cases l <;> rfl

/-- A mode-set issued directly whose call fails. -/
theorem step_accepted_modeSet_fails (l : Line) (m : Mode) (hrun : Running s) (hf : s.inputs.gpioFail = true) :
    ∃ u x, step (accept [forgetDisplay, .emit (.modeSet l m)] s) = .next u ∧ (x = s.mode l ∨ x = m) ∧
      u = { s.setMode l x with
        life := .faulted
        fcause := .gpioError
        display := .unknown
        script := s.script.tail
        out := ⟨false, some ⟨.gpioError, 0#8⟩, some ⟨s.pinId l, m⟩⟩
        freeCount := s.freeCount + 1 } := by
  obtain ⟨-, hpend⟩ := (ready_iff s).mp hr
  have hbusy : (accept [forgetDisplay, .emit (.modeSet l m)] s).life = .busy := accept_busy hr nofun
  obtain ⟨x, hx, hstep⟩ := step_fails_modeSet hbusy (accept_running hrun) (accept_pend hr) (by rwa [accept_inputs])
  rw [accept_mode] at hx
  refine ⟨_, x, hstep, hx, ?_⟩
  rw [accept_pinId, accept_of_ready hr]
  cases l <;> simp [State.setMode, hpend, compile, forgetDisplay, trackThrough]

/-- A settle issued directly is recorded, whatever the GPIO subsystem says. -/
theorem step_accepted_settle (hrun : Running s) :
    step (accept settleActions s) = .next { s with
      trace := s.trace ++ [.settle], script := s.script.tail, out := ⟨true, none, none⟩ } := by
  obtain ⟨hlife, hpend⟩ := (ready_iff s).mp hr
  have hbusy : (accept settleActions s).life = .busy := accept_busy hr nofun
  rw [step_performs_head hbusy (accept_running hrun) (accept_pend hr) (.inl rfl), finishEvent_eq,
    accept_of_ready hr, hlife, hpend]
  rfl

end

/-- Settles O20: a mode-set to `OUTPUT`, issued directly. -/
theorem driveLowSetsItsLineToOutput : Obligations.DriveLowSetsItsLineToOutput := by
  intro l s hr
  obtain ⟨haccepted, htracking⟩ := accepted_of_ready hr (acts := forgetDisplay :: driveLowActions l) nofun rfl
  exact ⟨_, exec_eq (.drvlow l) s, haccepted, htracking, run_modeSet hr l .output,
    step_accepted_modeSet_fails hr l .output⟩

/-- Settles O21: a mode-set to `INPUT`, issued directly. -/
theorem releaseSetsItsLineToInput : Obligations.ReleaseSetsItsLineToInput := by
  intro l s hr
  obtain ⟨haccepted, htracking⟩ := accepted_of_ready hr (acts := forgetDisplay :: releaseActions l) nofun rfl
  exact ⟨_, exec_eq (.release l) s, haccepted, htracking, run_modeSet hr l .input,
    step_accepted_modeSet_fails hr l .input⟩

/-- Settles O22: one settle, which cannot fail. -/
theorem settleOnlyExtendsTheTrace : Obligations.SettleOnlyExtendsTheTrace := by
  intro s hr
  obtain ⟨haccepted, htracking⟩ := accepted_of_ready hr (acts := settleActions) nofun rfl
  exact ⟨_, exec_eq .settle s, haccepted, htracking, Nat.one_mul _, step_accepted_settle hr⟩

end Sys2Proof.Proofs
end

section
/-! PROOFS. The framer: `start`, `stop` and `writeByte` as instructions and the shifts of a byte, the events of its
operations in pairs, the bracketing of an update, and the edges of a transaction's line levels. -/

namespace Sys2Proof.Proofs

open Sys2Proof.Machine Sys2Proof.Safety

/-! ### `start`, `stop` and `writeByte` as instructions (R81 to R83, R85) -/

/-- Settles O23: the two events of `start()`, issued directly and run to their end. -/
theorem startDrivesDataLow : Obligations.StartDrivesDataLow := by
  intro s hr
  obtain ⟨haccepted, htracking⟩ := accepted_of_ready hr (acts := forgetDisplay :: startActions) nofun rfl
  exact ⟨_, exec_eq .start s, haccepted, htracking,
    run_to_completion (acts := forgetDisplay :: startActions) (e := .settle) hr rfl⟩

/-- Settles O24: the six events of `stop()`, issued directly and run to their end. -/
theorem stopReleasesBothLines : Obligations.StopReleasesBothLines := by
  intro s hr
  obtain ⟨haccepted, htracking⟩ := accepted_of_ready hr (acts := forgetDisplay :: stopActions) nofun rfl
  exact ⟨_, exec_eq .stop s, haccepted, htracking,
    run_to_completion (acts := forgetDisplay :: stopActions) (e := .settle) hr rfl⟩

/-- Settles O25: `writeByte` issued directly, as for the wire bytes. -/
theorem writeByteSendsItsFrame : Obligations.WriteByteSendsItsFrame := by
  intro v s hr
  obtain ⟨-, -, -, -, htracking⟩ := accept_writeByte hr rfl
  exact ⟨_, exec_eq (.wrbyte v) s, accepted_writeByte v hr, htracking, run_writeByte v hr⟩

/-! ### The shifts of a byte (R86) -/

theorem iterate_shiftBit (k : Nat) (t : Tracking) : TrackWrite.shiftBit.apply^[k] t = shiftedBy k t := by
  induction k generalizing t with
  | zero => simp [shiftedBy]
  | succ k ih => rw [Function.iterate_succ_apply, ih, shiftedBy_succ]

/-- Settles O26: `k` shifts of a loaded byte, at once. -/
theorem shiftRegisterPresentsEachBit : Obligations.ShiftRegisterPresentsEachBit := by
  intro v t k hk
  rw [iterate_shiftBit]
  refine ⟨rfl, ?_, fun _ => ?_, fun h8 => ?_, rfl, rfl, rfl⟩
  · have hk16 : k < 2 ^ 4 := by omega
    simpa [shiftedBy, TrackWrite.apply] using hk16
  · simp [shiftedBy, TrackWrite.apply]
  · exact BitVec.ushiftRight_eq_zero h8.ge

/-! ### The events of an update (R91) -/

theorem emitted_payload (segs : List Byte) : emitted (payloadActions segs) = segs.flatMap byteFrameEvents := by
  induction segs with
  | nil => rfl
  | cons v rest ih => simp [payloadActions, emitted_writeByte, emitted, ih]

/-- The events of `setSegments` are the three transactions of R91. -/
theorem emitted_setSegments (bright : BitVec 4) (linesIdle : Bool) (pos : BitVec 3) (segs : List Byte) :
    emitted (setSegmentsActions bright linesIdle pos segs) = updateEvents segs pos bright := by
  have hstart : emitted startActions = startEvents := rfl
  have hstop : emitted stopActions = stopEvents := rfl
  simp [setSegmentsActions, transaction1, transaction2, transaction3, emitted_writeByte, emitted_payload, hstart, hstop,
    emitted, setSeq, updateEvents, transactionEvents, modeSelectByte, addressSelectByte, displayControlByte]

/-! ### Mode-sets and settles in pairs (R80) -/

theorem pairedWithSettles_append {a b : List Event} (ha : pairedWithSettles a = true)
    (hb : pairedWithSettles b = true) : pairedWithSettles (a ++ b) = true := by
  induction a using pairedWithSettles.induct with
  | case1 => exact hb
  | case2 l m rest ih => exact ih ha
  | case3 e rest hne => simp [pairedWithSettles] at ha

theorem pairedWithSettles_flatMap {α : Type} {f : α → List Event} (hf : ∀ x, pairedWithSettles (f x) = true)
    (xs : List α) : pairedWithSettles (xs.flatMap f) = true := by
  induction xs with
  | nil => rfl
  | cons x rest ih => exact pairedWithSettles_append (hf x) ih

theorem pairedWithSettles_byteFrame (v : Byte) : pairedWithSettles (byteFrameEvents v) = true :=
  pairedWithSettles_append (pairedWithSettles_flatMap (fun _ => rfl) _) rfl

theorem pairedWithSettles_transaction (bytes : List Byte) : pairedWithSettles (transactionEvents bytes) = true :=
  pairedWithSettles_append
    (pairedWithSettles_append rfl (pairedWithSettles_flatMap pairedWithSettles_byteFrame bytes)) rfl

theorem pairedWithSettles_update (segs : List Byte) (pos : BitVec 3) (bright : BitVec 4) :
    pairedWithSettles (updateEvents segs pos bright) = true :=
  pairedWithSettles_append
    (pairedWithSettles_append (pairedWithSettles_transaction _) (pairedWithSettles_transaction _))
    (pairedWithSettles_transaction _)

/-- Settles O10: the bit slots, the frames and the transactions are put together of pairs. -/
theorem everyModeSetIsFollowedByOneSettle : Obligations.EveryModeSetIsFollowedByOneSettle := by
  refine ⟨rfl, rfl, fun v => ?_, fun bright linesIdle pos segs => ?_⟩
  · rw [emitted_writeByte]
    exact pairedWithSettles_byteFrame v
  · rw [emitted_setSegments]
    exact pairedWithSettles_update segs pos bright

/-! ### The bracketing of an update (R23, R84) -/

theorem txnWrites_append (a b : List Action) : txnWrites (a ++ b) = txnWrites a ++ txnWrites b := by
  induction a using txnWrites.induct with
  | case1 => rfl
  | case2 t rest ih => simp [txnWrites, ih]
  | case3 x rest hne ih => simp [txnWrites, ih]

theorem txnWrites_bitLoop (v : Byte) (i n : Nat) : txnWrites (bitLoop v i n) = [] := by
  induction n generalizing i with
  | zero => rfl
  | succ n ih => exact ih (i + 1)

theorem txnWrites_writeByte (v : Byte) : txnWrites (writeByteActions v) = [.byteSent] := by
  simp only [writeByteActions, txnWrites_append, txnWrites_bitLoop]
  rfl

theorem txnWrites_payload (segs : List Byte) :
    txnWrites (payloadActions segs) = List.replicate segs.length .byteSent := by
  induction segs with
  | nil => rfl
  | cons v rest ih =>
    simp only [payloadActions, txnWrites_append, txnWrites_writeByte, ih]
    rfl

/-- The framer operations of an update: three transactions, of one byte, of the address byte and the payload, and of
one byte (R91). -/
theorem txnWrites_setSegments (bright : BitVec 4) (linesIdle : Bool) (pos : BitVec 3) (segs : List Byte) :
    txnWrites (setSegmentsActions bright linesIdle pos segs) =
      [.started, .byteSent, .stopped, .started, .byteSent] ++ List.replicate segs.length .byteSent ++
        [.stopped, .started, .byteSent, .stopped] := by
  have hstart : txnWrites startActions = [.started] := rfl
  have hstop : txnWrites stopActions = [.stopped] := rfl
  simp [setSegmentsActions, transaction1, transaction2, transaction3, txnWrites_append, txnWrites_writeByte,
    txnWrites_payload, hstart, hstop, txnWrites, setSeq]

/-- After a byte, more bytes are in order and leave the transaction as it is. -/
theorem wellBracketed_replicate_byteSent (n : Nat) (ws : List TxnState) :
    wellBracketed .byteSent (List.replicate n .byteSent ++ ws) = wellBracketed .byteSent ws := by
  induction n with
  | zero => rfl
  | succ n ih => exact ih

/-- Settles O11: the payload's bytes stand inside transaction 2, after its address byte. -/
theorem setSegmentsIsWellBracketed : Obligations.SetSegmentsIsWellBracketed := by
  intro segs pos bright linesIdle t ht
  rw [txnWrites_setSegments]
  constructor
  · have hpayload := wellBracketed_replicate_byteSent segs.length [.stopped, .started, .byteSent, .stopped]
    have hnext : startInOrder .stopped = true := rfl
    simp [wellBracketed, ht, hpayload, hnext, insideTransaction]
  · simp only [List.length_append, List.length_replicate, List.length_cons, List.length_nil]
    omega

/-! ### The edges of a transaction's line levels (R14, R88) -/

/-- The edges of two consecutive event lists are counted in each, the second from the modes the first has left. -/
theorem countEdges_levels_append (f : Bool × Bool → Bool × Bool → Bool) (c d : Mode) (a b : List Event) :
    countEdges f (lineLevel c true, lineLevel d true) (levels c d (a ++ b)) =
      countEdges f (lineLevel c true, lineLevel d true) (levels c d a) +
        countEdges f (lineLevel (modeAfter .clk c a) true, lineLevel (modeAfter .dio d a) true)
          (levels (modeAfter .clk c a) (modeAfter .dio d a) b) := by
  induction a generalizing c d with
  | nil => exact (Nat.zero_add _).symm
  | cons e rest ih =>
    obtain ⟨_ | _, x⟩ | _ := e <;> simp [levels, countEdges, modeAfter, ih, Nat.add_assoc]

/-- Emitted from the modes `c`, `d`, the events `es` make so many start conditions, stop conditions and clock rises. -/
structure LineEdges (c d : Mode) (es : List Event) (startCount stopCount riseCount : Nat) : Prop where
  starts : countEdges startEdge (lineLevel c true, lineLevel d true) (levels c d es) = startCount
  stops : countEdges stopEdge (lineLevel c true, lineLevel d true) (levels c d es) = stopCount
  rises : countEdges clockRise (lineLevel c true, lineLevel d true) (levels c d es) = riseCount

theorem LineEdges.append {c d : Mode} {a b : List Event} {p q r p' q' r' : Nat} (ha : LineEdges c d a p q r)
    (hb : LineEdges (modeAfter .clk c a) (modeAfter .dio d a) b p' q' r') :
    LineEdges c d (a ++ b) (p + p') (q + q') (r + r') where
  starts := by rw [countEdges_levels_append, ha.starts, hb.starts]
  stops := by rw [countEdges_levels_append, ha.stops, hb.stops]
  rises := by rw [countEdges_levels_append, ha.rises, hb.rises]

/-- Pieces with `k` clock rises each and no other edge, whatever the modes before them. -/
theorem LineEdges.flatMap {α : Type} {g : α → List Event} {k : Nat} (hg : ∀ c d x, LineEdges c d (g x) 0 0 k)
    (c d : Mode) (xs : List α) : LineEdges c d (xs.flatMap g) 0 0 (xs.length * k) := by
  induction xs generalizing c d with
  | nil => exact ⟨rfl, rfl, (Nat.zero_mul k).symm⟩
  | cons x rest ih =>
    rw [List.flatMap_cons, List.length_cons, Nat.succ_mul, Nat.add_comm]
    exact (hg c d x).append (ih _ _)

/-- The data line moves while the clock is low, and the clock rises once (R51). -/
theorem LineEdges.bitSlot (c d : Mode) (b : Bool) : LineEdges c d (bitSlotEvents b) 0 0 1 := by
  cases c <;> cases d <;> cases b <;> exact ⟨rfl, rfl, rfl⟩

theorem LineEdges.ackSlot (c d : Mode) : LineEdges c d ackSlotEvents 0 0 1 := by
  cases c <;> cases d <;> exact ⟨rfl, rfl, rfl⟩

theorem LineEdges.byteFrame (c d : Mode) (v : Byte) : LineEdges c d (byteFrameEvents v) 0 0 9 :=
  (LineEdges.flatMap (fun c d i => LineEdges.bitSlot c d (v.getLsbD i)) c d (List.range 8)).append
    (LineEdges.ackSlot _ _)

/-- From a low clock `stop()` makes one clock rise and one stop condition. -/
theorem LineEdges.stop (d : Mode) : LineEdges .output d stopEvents 0 1 1 := by
  cases d <;> exact ⟨rfl, rfl, rfl⟩

/-- The acknowledgement slot of the last byte leaves the clock low (R52). -/
theorem modeAfter_clk_byteFrames {bytes : List Byte} (hne : bytes ≠ []) (m : Mode) :
    modeAfter .clk m (bytes.flatMap byteFrameEvents) = .output := by
  rw [← List.dropLast_append_getLast hne, List.flatMap_append, modeAfter_append, List.flatMap_singleton,
    modeAfter_clk_byteFrame]

/-- The `stop()` of a transaction finds the clock low, so its last mode-set is a stop condition and not an empty
transaction's (R88). -/
theorem LineEdges.transaction {bytes : List Byte} (hne : bytes ≠ []) :
    LineEdges .input .input (transactionEvents bytes) 1 1 (9 * bytes.length + 1) := by
  have hstart : LineEdges .input .input startEvents 1 0 0 := ⟨rfl, rfl, rfl⟩
  have hbytes := hstart.append (LineEdges.flatMap LineEdges.byteFrame _ _ bytes)
  have hclock : modeAfter .clk .input (startEvents ++ bytes.flatMap byteFrameEvents) = .output := by
    rw [modeAfter_append, modeAfter_clk_byteFrames hne]
  have hstop : LineEdges (modeAfter .clk .input (startEvents ++ bytes.flatMap byteFrameEvents))
      (modeAfter .dio .input (startEvents ++ bytes.flatMap byteFrameEvents)) stopEvents 0 1 1 := by
    rw [hclock]
    exact LineEdges.stop _
  simpa [transactionEvents, Nat.mul_comm] using hbytes.append hstop

/-- A transaction ends with `stop()`, which releases both lines (R82). -/
theorem modeAfter_transaction (l : Line) (m : Mode) (bytes : List Byte) :
    modeAfter l m (transactionEvents bytes) = .input := by
  rw [transactionEvents, modeAfter_append]
  cases l <;> rfl

/-- Settles O12: the edges of `start()`, of nine slots a byte, and of `stop()`. -/
theorem transactionHasOneStartAndOneStop : Obligations.TransactionHasOneStartAndOneStop := by
  intro bytes hne
  obtain ⟨hstarts, hstops, hrises⟩ := LineEdges.transaction hne
  exact ⟨hstarts, hstops, hrises, modeAfter_transaction .clk _ _, modeAfter_transaction .dio _ _⟩

end Sys2Proof.Proofs
end

section
/-! PROOFS. The segment API: the misuse check, the lookup, the events of an update, and the one event that the auxiliary
indicator changes. -/

namespace Sys2Proof.Proofs

open Sys2Proof.Machine Sys2Proof.Safety

/-! ### The argument check (R92, R115) -/

theorem argumentCheck_eq_none_iff (pos len : BitVec 3) :
    argumentCheck pos len = none ↔ pos.toNat ≤ 5 ∧ len.toNat ≤ 6 ∧ pos.toNat + len.toNat ≤ 6 := by
  unfold argumentCheck
  split_ifs <;> simp <;> omega

/-- The first of the three conditions that holds is the one reported. -/
theorem argumentCheck_eq_some {pos len : BitVec 3} {c : MisuseCause}
    (h : c = .posRange ∧ 5 < pos.toNat ∨ c = .lenRange ∧ ¬ 5 < pos.toNat ∧ 6 < len.toNat ∨
      c = .sumRange ∧ ¬ 5 < pos.toNat ∧ ¬ 6 < len.toNat ∧ 6 < pos.toNat + len.toNat) :
    argumentCheck pos len = some c := by
  unfold argumentCheck
  obtain ⟨rfl, hpos⟩ | ⟨rfl, hpos, hlen⟩ | ⟨rfl, hpos, hlen, hsum⟩ := h
  · rw [if_pos hpos]
  · rw [if_neg hpos, if_pos hlen]
  · rw [if_neg hpos, if_neg hlen, if_pos hsum]

/-- Settles O31: the check names the cause, and a refusal writes the response only. -/
theorem misuseIsRejectedWithoutEffect : Obligations.MisuseIsRejectedWithoutEffect := by
  refine ⟨fun pos len f s c hr hc => ?_, argumentCheck_eq_none_iff, fun pos len => ?_, ⟨rfl, rfl, rfl, rfl⟩,
    by decide⟩
  · rw [exec, execSetseg, argumentCheck_eq_some hc]
    exact congrArg _ (reject_ready hr)
  · rw [argumentCheck_eq_none_iff, rangeLegal_iff, Nat.lt_succ_iff]

/-! ### The lookup (R31 to R34, R96) -/

/-- Entry `6 + k` is the parameter's entry `k`, widened by a zero (R31, R34). -/
theorem segrom_of_toNat_eq (s : State) {d : BitVec 4} {k : Nat} (hd : d.toNat = k + 6) (hk : k < 10) :
    s.segrom d = 0#1 ++ s.segromHigh[k] := by
  simp only [State.segrom, hd, hk, dite_true]
  exact BitVec.setWidth_eq_append (by decide)

theorem segrom_getLsbD_seven (s : State) (d : BitVec 4) : (s.segrom d).getLsbD 7 = false := by
  unfold State.segrom
  split
  case h_7 k hd =>
    rw [dif_pos (by omega), BitVec.getLsbD_setWidth, BitVec.getLsbD_of_ge _ _ (le_refl 7), Bool.and_false]
  all_goals rfl

/-- Settles O32: an answer writes the output pulses only, and every ROM entry has bit 7 zero. -/
theorem lookupAnswersTheRomEntry : Obligations.LookupAnswersTheRomEntry := by
  refine ⟨fun d s hr => ?_,
    fun s => ⟨rfl, rfl, rfl, rfl, rfl, rfl, fun k hk => segrom_of_toNat_eq s ?_ hk⟩⟩
  · rw [exec, execLookup, answer_ready hr]
    exact ⟨_, rfl, rfl, rfl, rfl, segrom_getLsbD_seven s d⟩
  · rw [BitVec.toNat_ofNat]
    omega

/-! ### The events of an update, counted (R91, R101) -/

/-- A property that holds of 27 events of each byte, one of `start()` and three of `stop()`, in an update. -/
theorem countP_updateEvents (f : Event → Bool) (hbyte : ∀ v, (byteFrameEvents v).countP f = 27)
    (hstart : startEvents.countP f = 1) (hstop : stopEvents.countP f = 3) (segs : List Byte) (pos : BitVec 3)
    (bright : BitVec 4) : (updateEvents segs pos bright).countP f = 93 + 27 * segs.length := by
  simp only [updateEvents, List.countP_append, countP_transactionEvents f hbyte, hstart, hstop, List.length_cons,
    List.length_nil]
  omega

/-- Settles O9: three transactions, with mode-sets and settles counted byte by byte. -/
theorem setSegmentsEventsAreThreeTransactions : Obligations.SetSegmentsEventsAreThreeTransactions := by
  intro segs pos bright linesIdle
  have hlength := emitted_setSegments_length bright linesIdle pos segs
  rw [emitted_setSegments] at hlength ⊢
  exact ⟨rfl, hlength, countP_updateEvents isModeSet byteFrameEvents_modeSetCount rfl rfl segs pos bright,
    countP_updateEvents isSettle byteFrameEvents_settleCount rfl rfl segs pos bright⟩

/-! ### The auxiliary indicator (R66, R97) -/

theorem withAuxiliary_getLsbD (v : Byte) {i : Nat} (hi : i < 8) :
    (withAuxiliary v).getLsbD i = (v.getLsbD i || decide (i = 7)) := by
  rw [withAuxiliary, BitVec.getLsbD_or]
  interval_cases i <;> rfl

theorem flatMap_byteFrameEvents_length (bytes : List Byte) :
    (bytes.flatMap byteFrameEvents).length = 54 * bytes.length := by
  simp [List.length_flatMap, byteFrameEvents_length, Nat.mul_comm]

/-- A byte frame around the data mode-set of its last bit slot. -/
theorem byteFrameEvents_around_bit_seven (v : Byte) :
    byteFrameEvents v =
      (List.range 7).flatMap (fun i => bitSlotEvents (v.getLsbD i)) ++ [.modeSet .clk .output, .settle]
        ++ .modeSet .dio (bitMode (v.getLsbD 7)) :: [.settle, .modeSet .clk .input, .settle] ++ ackSlotEvents := by
  simp [byteFrameEvents, List.range_succ, bitSlotEvents, bitMode]

/-- The data mode-set of bit slot 7 of segment `xs.length` is event `162 + 54 * xs.length`, and the only one that bit 7
of the segment decides. -/
theorem updateEvents_around_bit_seven (xs ys : List Byte) (v : Byte) (pos : BitVec 3) (bright : BitVec 4) :
    ∃ before after : List Event, before.length = 162 + 54 * xs.length ∧
      ∀ w : Byte, (∀ i < 7, w.getLsbD i = v.getLsbD i) →
        updateEvents (xs ++ w :: ys) pos bright = before ++ .modeSet .dio (bitMode (w.getLsbD 7)) :: after := by
  refine ⟨transactionEvents [0x40#8] ++ startEvents ++ byteFrameEvents (0xC0#8 + pos.zeroExtend 8)
      ++ xs.flatMap byteFrameEvents ++ (List.range 7).flatMap (fun i => bitSlotEvents (v.getLsbD i))
      ++ [.modeSet .clk .output, .settle],
    [.settle, .modeSet .clk .input, .settle] ++ ackSlotEvents ++ ys.flatMap byteFrameEvents ++ stopEvents
      ++ transactionEvents [0x80#8 + bright.zeroExtend 8], ?_, fun w hw => ?_⟩
  · have hslots : ((List.range 7).flatMap fun i => bitSlotEvents (v.getLsbD i)).length = 42 := rfl
    have hstart : startEvents.length = 2 := rfl
    obtain ⟨hfirst, -⟩ := transactionEventCounts [0x40#8]
    simp only [List.length_append, hfirst, hstart, byteFrameEvents_length, flatMap_byteFrameEvents_length, hslots,
      List.length_cons, List.length_nil]
    omega
  · have hslots : (List.range 7).flatMap (fun i => bitSlotEvents (w.getLsbD i)) =
        (List.range 7).flatMap (fun i => bitSlotEvents (v.getLsbD i)) :=
      List.flatMap_congr fun i hi => congrArg bitSlotEvents (hw i (List.mem_range.mp hi))
    simp [updateEvents, transactionEvents, byteFrameEvents_around_bit_seven w, hslots]

/-- Settles O14: bit 7 alone differs, and it decides one event. -/
theorem auxiliaryBitChangesOneEvent : Obligations.AuxiliaryBitChangesOneEvent := by
  intro segs pos bright k v hk hv
  obtain ⟨hlt, rfl⟩ := List.getElem?_eq_some_iff.mp hk
  obtain ⟨xs, ys, hsegs, rfl, hset⟩ := List.exists_of_set (a' := withAuxiliary segs[k]) hlt
  obtain ⟨before, after, hbefore, hupdate⟩ := updateEvents_around_bit_seven xs ys segs[xs.length] pos bright
  have hplain := hupdate segs[xs.length] fun _ _ => rfl
  have haux := hupdate (withAuxiliary segs[xs.length]) fun i hi => by
    rw [withAuxiliary_getLsbD _ (by omega)]
    simp [hi.ne]
  rw [withAuxiliary_getLsbD _ (by decide)] at haux
  rw [hset, haux]
  rw [← hsegs, hv] at hplain
  rw [hplain, ← hbefore]
  exact ⟨by simp [bitMode], by simp [bitMode]⟩

end Sys2Proof.Proofs
end

section
/-! PROOFS. What the reference receiver recovers from the events of an update (V11, R91; log entry 12). -/

namespace Sys2Proof.Proofs

open Sys2Proof.Machine Sys2Proof.Safety

/-! ### The receiver over an event list -/

/-- The receiver after the events `es`, emitted from the modes `c`, `d`. -/
def receiverAfter (r : Receiver) (c d : Mode) (es : List Event) : Receiver :=
  r.run (lineLevel c true, lineLevel d true) (levels c d es)

/-- The receiver takes in two consecutive event lists one after the other, the second from the modes the first has
left. -/
theorem receiverAfter_append (r : Receiver) (c d : Mode) (a b : List Event) :
    receiverAfter r c d (a ++ b) =
      receiverAfter (receiverAfter r c d a) (modeAfter .clk c a) (modeAfter .dio d a) b := by
  induction a generalizing r c d with
  | nil => rfl
  | cons e rest ih => obtain ⟨_ | _, x⟩ | _ := e <;> exact ih _ _ _

section
variable (c d : Mode) (bytes : List Byte) (received : List (List Byte))

/-- A bit slot: the clock rise samples the data line (R51). -/
theorem receiverAfter_bitSlot (bits : List Bool) (hbits : bits.length < 8) (b : Bool) :
    receiverAfter ⟨true, bits, bytes, received⟩ c d (bitSlotEvents b) = ⟨true, bits ++ [b], bytes, received⟩ := by
  cases c <;> cases d <;> cases b <;>
    simp [receiverAfter, bitSlotEvents, levels, lineLevel, Receiver.run, Receiver.observe, startEdge, stopEdge,
      clockRise, hbits]

/-- Bit slots that follow `bits` in one byte. -/
theorem receiverAfter_bitSlots (bits new : List Bool) (hbits : bits.length + new.length ≤ 8) :
    receiverAfter ⟨true, bits, bytes, received⟩ c d (new.flatMap bitSlotEvents) =
      ⟨true, bits ++ new, bytes, received⟩ := by
  induction new generalizing c d bits with
  | nil => simp [receiverAfter, levels, Receiver.run]
  | cons b rest ih =>
    rw [List.length_cons] at hbits
    rw [List.flatMap_cons, receiverAfter_append, receiverAfter_bitSlot _ _ _ _ _ (by omega), ih]
    · simp
    · simp; omega

/-- The acknowledgement slot: the ninth clock rise ends the byte (R52). -/
theorem receiverAfter_ackSlot (bits : List Bool) (hbits : bits.length = 8) :
    receiverAfter ⟨true, bits, bytes, received⟩ c d ackSlotEvents =
      ⟨true, [], bytes ++ [byteOfBits bits], received⟩ := by
  cases c <;> cases d <;>
    simp [receiverAfter, ackSlotEvents, levels, lineLevel, Receiver.run, Receiver.observe, startEdge, stopEdge,
      clockRise, hbits]

/-- Bit `i` of a byte is the bit received `i`-th (R40). -/
theorem byteOfBits_getElem (bits : List Bool) {i : Nat} (hi : i < 8) :
    (byteOfBits bits)[i] = bits[i]?.getD false := by
  induction bits generalizing i with
  | nil => simp [byteOfBits]
  | cons b rest ih =>
    cases i with
    | zero => cases b <;> simp [byteOfBits]
    | succ i => cases b <;> simp [byteOfBits, ih]

/-- The bits of a byte, least significant first, make the byte. -/
theorem byteOfBits_of_byte (v : Byte) : byteOfBits ((List.range 8).map v.getLsbD) = v := by
  ext i hi
  rw [byteOfBits_getElem _ hi]
  simp [hi]

/-- A byte frame is received as its byte (R53). -/
theorem receiverAfter_byteFrame (v : Byte) :
    receiverAfter ⟨true, [], bytes, received⟩ c d (byteFrameEvents v) = ⟨true, [], bytes ++ [v], received⟩ := by
  have hslots : (List.range 8).flatMap (fun i => bitSlotEvents (v.getLsbD i)) =
      ((List.range 8).map v.getLsbD).flatMap bitSlotEvents := rfl
  rw [byteFrameEvents, hslots, receiverAfter_append, receiverAfter_bitSlots _ _ _ _ [] _ (by simp),
    receiverAfter_ackSlot _ _ _ _ _ (by simp), List.nil_append, byteOfBits_of_byte]

theorem receiverAfter_byteFrames (vs : List Byte) :
    receiverAfter ⟨true, [], bytes, received⟩ c d (vs.flatMap byteFrameEvents) =
      ⟨true, [], bytes ++ vs, received⟩ := by
  induction vs generalizing c d bytes with
  | nil => simp [receiverAfter, levels, Receiver.run]
  | cons v rest ih =>
    rw [List.flatMap_cons, receiverAfter_append, receiverAfter_byteFrame, ih, List.append_assoc, List.singleton_append]

/-- From a low clock `stop()` makes one more clock rise, whose bit is dropped, and then the stop condition (R82). -/
theorem receiverAfter_stop :
    receiverAfter ⟨true, [], bytes, received⟩ .output d stopEvents = ⟨false, [], [], received ++ [bytes]⟩ := by
  cases d <;> rfl

end

/-- From both lines released `start()` opens a transaction, whatever the receiver has seen (R81). -/
theorem receiverAfter_start (r : Receiver) :
    receiverAfter r .input .input startEvents = ⟨true, [], [], r.received⟩ := rfl

/-- A transaction that begins with both lines released is received as its bytes (R54). -/
theorem receiverAfter_transaction (r : Receiver) {bytes : List Byte} (hne : bytes ≠ []) :
    receiverAfter r .input .input (transactionEvents bytes) = ⟨false, [], [], r.received ++ [bytes]⟩ := by
  have hclock : modeAfter .clk .input (startEvents ++ bytes.flatMap byteFrameEvents) = .output := by
    rw [modeAfter_append, modeAfter_clk_byteFrames hne]
  rw [transactionEvents, receiverAfter_append, hclock, receiverAfter_append, receiverAfter_start,
    receiverAfter_byteFrames, receiverAfter_stop, List.nil_append]

/-- An update is received as its three transactions: each leaves both lines released for the next (R91). -/
theorem receivedFrom_updateEvents (segs : List Byte) (pos : BitVec 3) (bright : BitVec 4) :
    receivedFrom (updateEvents segs pos bright) =
      [[0x40#8], (0xC0#8 + pos.zeroExtend 8) :: segs, [0x80#8 + bright.zeroExtend 8]] := by
  change (receiverAfter Receiver.initial .input .input (updateEvents segs pos bright)).received = _
  simp only [updateEvents, receiverAfter_append, modeAfter_append, modeAfter_transaction,
    receiverAfter_transaction _ (List.cons_ne_nil _ _)]
  rfl

/-- Settles O13: the events of `setSegments`, emitted or pending, are those of the update. -/
theorem receiverRecoversTheBytesOfAnUpdate : Obligations.ReceiverRecoversTheBytesOfAnUpdate := by
  refine ⟨fun segs pos bright linesIdle => ?_, fun pos len f s hl hr => ⟨_, exec_setseg_of_rangeLegal hl f s, ?_⟩⟩
  · rw [emitted_setSegments, receivedFrom_updateEvents]
  · rw [pendingEvents_accept hr, emitted_setSegments, receivedFrom_updateEvents]

end Sys2Proof.Proofs
end

section
/-! PROOFS. A legal `setSegments` run undisturbed: the tracking registers at the cut points of its pseudocode, and the
whole state at its end. -/

namespace Sys2Proof.Proofs

open Sys2Proof.Machine Sys2Proof.Safety

/-! ### An accepted operation, run up to a point of its pseudocode (R19) -/

/-- The pending events of the first part make the writes of that part, and those that stand before the first event of
what follows it. -/
theorem trackingAtEnd_compile_append (a b : List Action) (t : Tracking) :
    trackingAtEnd ((compile (a ++ b)).2.take (emitted a).length) (trackThrough (compile (a ++ b)).1 t) =
      trackThrough (compile b).1 (trackThrough (writesOf a) t) := by
  induction a generalizing t with
  | nil => rfl
  | cons x rest ih =>
    cases x with
    | emit e => exact ih t
    | write w => cases w <;> exact ih _

/-- Run undisturbed until the `n` events of the first part `a` are emitted. -/
theorem run_accepted_part {acts a b : List Action} {n : Nat} {s : State} (hr : s.ready = true) (hacts : acts = a ++ b)
    (hn : (emitted a).length = n) (hc : Calm n s) :
    ∃ u : State, Host.Core.run core n (accept acts s) = .next u ∧
      u.tracking = trackThrough (compile b).1 (trackThrough (writesOf a) s.tracking) := by
  subst hacts hn
  have hpart : (emitted a).length ≤ (accept (a ++ b) s).pend.length := by
    rw [accept_pend hr, compile_length, emitted_append, List.length_append]
    exact Nat.le_add_right _ _
  have hbusy (hpos : 0 < (emitted a).length) : (accept (a ++ b) s).life = .busy := by
    refine accept_busy hr ?_
    rw [emitted_append]
    exact List.append_ne_nil_of_left_ne_nil (List.ne_nil_of_length_pos hpos) _
  obtain ⟨u, hrun, hu⟩ := run_performs hbusy hpart (by rwa [Calm, accept_script])
  refine ⟨u, hrun, ?_⟩
  rw [hu.tracking, accept_of_ready hr]
  exact trackingAtEnd_compile_append a b s.tracking

/-! ### The cut points of `setSegments` (R91) -/

/-- `setSegments` up to the end of transaction 1. -/
def upToTransaction1 (linesIdle : Bool) (pos : BitVec 3) (segs : List Byte) : List Action :=
  [.write (.display (.beginUpdate pos.toNat segs.length linesIdle))] ++ transaction1
    ++ [setSeq .cmd1Framed, .write (.display .selectAutoIncrement)]

/-- `setSegments` up to the address byte and `k` payload bytes. -/
def upToPayload (linesIdle : Bool) (pos : BitVec 3) (segs : List Byte) (k : Nat) : List Action :=
  upToTransaction1 linesIdle pos segs ++ startActions ++ writeByteActions (addressSelectByte pos)
    ++ [.write (.track .clearByteIdx)] ++ payloadActions (segs.take k)

/-- `setSegments` up to the end of transaction 2. -/
def upToTransaction2 (linesIdle : Bool) (pos : BitVec 3) (segs : List Byte) : List Action :=
  upToPayload linesIdle pos segs segs.length ++ stopActions
    ++ [setSeq .cmd2PayloadFramed, .write (.display (.writeDigits pos.toNat segs))]

/-- Transaction 3 and the end of `setSegments`. -/
def fromTransaction3 (bright : BitVec 4) : List Action :=
  transaction3 bright ++ [setSeq .cmd3Framed, setSeq .idle, .write (.display (.setControl bright))]

theorem payloadActions_append (a b : List Byte) :
    payloadActions (a ++ b) = payloadActions a ++ payloadActions b := by
  induction a with
  | nil => rfl
  | cons v rest ih => simp [payloadActions, ih]

section
variable (bright : BitVec 4) (linesIdle : Bool) (pos : BitVec 3) (segs : List Byte)

theorem setSegmentsActions_at_transaction2 :
    setSegmentsActions bright linesIdle pos segs =
      upToTransaction2 linesIdle pos segs ++ fromTransaction3 bright := by
  simp [setSegmentsActions, upToTransaction2, upToPayload, upToTransaction1, transaction2, fromTransaction3]

theorem setSegmentsActions_at_payload (k : Nat) :
    setSegmentsActions bright linesIdle pos segs =
      upToPayload linesIdle pos segs k ++ (payloadActions (segs.drop k) ++
        (stopActions ++ [setSeq .cmd2PayloadFramed, .write (.display (.writeDigits pos.toNat segs))]
          ++ fromTransaction3 bright)) := by
  have hpayload : payloadActions segs = payloadActions (segs.take k) ++ payloadActions (segs.drop k) := by
    rw [← payloadActions_append, List.take_append_drop]
  simp [setSegmentsActions, upToPayload, upToTransaction1, transaction2, fromTransaction3, hpayload]

theorem setSegmentsActions_at_transaction1 :
    setSegmentsActions bright linesIdle pos segs =
      upToTransaction1 linesIdle pos segs ++ (transaction2 pos segs
        ++ [setSeq .cmd2PayloadFramed, .write (.display (.writeDigits pos.toNat segs))]
        ++ fromTransaction3 bright) := by
  simp [setSegmentsActions, upToTransaction1, fromTransaction3]

/-! ### The events up to a cut point (R97) -/

theorem emitted_upToTransaction1_length : (emitted (upToTransaction1 linesIdle pos segs)).length = 62 := rfl

theorem emitted_upToPayload_length {k : Nat} (hk : k ≤ segs.length) :
    (emitted (upToPayload linesIdle pos segs k)).length = 118 + 54 * k := by
  have hstart : (emitted startActions).length = 2 := rfl
  have hclear : (emitted [.write (.track .clearByteIdx)]).length = 0 := rfl
  simp only [upToPayload, emitted_append, List.length_append, emitted_upToTransaction1_length, hstart,
    emitted_writeByte_length, hclear, emitted_payload_length, List.length_take_of_le hk]

theorem emitted_upToTransaction2_length :
    (emitted (upToTransaction2 linesIdle pos segs)).length = 124 + 54 * segs.length := by
  have hstop : (emitted stopActions).length = 6 := rfl
  have hwrites : emitted [setSeq .cmd2PayloadFramed, .write (.display (.writeDigits pos.toNat segs))] = [] := rfl
  simp only [upToTransaction2, emitted_append, List.length_append, emitted_upToPayload_length linesIdle pos segs le_rfl,
    hstop, hwrites, List.length_nil]
  omega

/-! ### The tracking registers up to a cut point (R17, R22, R91) -/

/-- A transaction of one byte. -/
theorem trackThrough_oneByteTransaction (v : Byte) (t : Tracking) :
    trackThrough (writesOf (startActions ++ writeByteActions v ++ stopActions)) t =
      { t with shift := 0#8, bitcnt := 8#4, txn := .stopped } := by
  rw [writesOf_append, writesOf_append, trackThrough_append, trackThrough_append, trackThrough_writeByte]
  rfl

/-- After a byte of transaction 2, the payload counts its bytes. -/
theorem trackThrough_payload (b : BitVec 3) (q : SeqState) :
    trackThrough (writesOf (payloadActions segs)) ⟨0#8, 8#4, b, q, .byteSent⟩ =
      ⟨0#8, 8#4, b + BitVec.ofNat 3 segs.length, q, .byteSent⟩ := by
  induction segs generalizing b with
  | nil => simp [payloadActions, trackThrough]
  | cons v rest ih =>
    have hcount : b + BitVec.ofNat 3 (rest.length + 1) = b + 1#3 + BitVec.ofNat 3 rest.length := by
      rw [BitVec.add_assoc, ← BitVec.ofNat_add, Nat.add_comm]
    rw [payloadActions, writesOf_append, writesOf_append, trackThrough_append, trackThrough_append,
      trackThrough_writeByte, List.length_cons, hcount, ← ih]
    rfl

theorem trackThrough_upToTransaction1 (t : Tracking) :
    trackThrough (writesOf (upToTransaction1 linesIdle pos segs)) t =
      ⟨0#8, 8#4, t.byteidx, .cmd1Framed, .stopped⟩ := by
  rw [upToTransaction1, writesOf_append, writesOf_append, trackThrough_append, trackThrough_append, transaction1,
    trackThrough_oneByteTransaction]
  rfl

theorem trackThrough_upToPayload {k : Nat} (hk : k ≤ segs.length) (t : Tracking) :
    trackThrough (writesOf (upToPayload linesIdle pos segs k)) t =
      ⟨0#8, 8#4, BitVec.ofNat 3 k, .cmd1Framed, .byteSent⟩ := by
  have hpayload := trackThrough_payload (segs.take k) 0#3 .cmd1Framed
  rw [List.length_take_of_le hk, BitVec.zero_add] at hpayload
  rw [← hpayload]
  simp only [upToPayload, writesOf_append, trackThrough_append, trackThrough_upToTransaction1, trackThrough_writeByte]
  rfl

theorem trackThrough_upToTransaction2 (t : Tracking) :
    trackThrough (writesOf (upToTransaction2 linesIdle pos segs)) t =
      ⟨0#8, 8#4, BitVec.ofNat 3 segs.length, .cmd2PayloadFramed, .stopped⟩ := by
  rw [upToTransaction2, writesOf_append, writesOf_append, trackThrough_append, trackThrough_append,
    trackThrough_upToPayload _ _ _ le_rfl]
  rfl

theorem trackThrough_setSegments (t : Tracking) :
    trackThrough (writesOf (setSegmentsActions bright linesIdle pos segs)) t =
      ⟨0#8, 8#4, BitVec.ofNat 3 segs.length, .idle, .stopped⟩ := by
  rw [setSegmentsActions_at_transaction2, writesOf_append, trackThrough_append, trackThrough_upToTransaction2,
    fromTransaction3, writesOf_append, trackThrough_append, transaction3, trackThrough_oneByteTransaction]
  rfl

/-- The next payload byte, if there is one, is loaded with the last event of the byte before it (R19, R83). -/
theorem trackThrough_next_payload (k : Nat) {after : List Action} (hafter : (compile after).1 = []) (b : BitVec 3)
    (q : SeqState) (x : TxnState) :
    trackThrough (compile (payloadActions (segs.drop k) ++ after)).1 ⟨0#8, 8#4, b, q, x⟩ =
      ⟨segs[k]?.getD 0#8, if k < segs.length then 0#4 else 8#4, b, q, x⟩ := by
  by_cases hk : k < segs.length
  · rw [List.drop_eq_getElem_cons hk, List.getElem?_eq_getElem hk, if_pos hk]
    rfl
  · rw [List.drop_eq_nil_of_le (Nat.not_lt.mp hk), List.getElem?_eq_none (Nat.not_lt.mp hk), if_neg hk, payloadActions,
      List.nil_append, hafter]
    rfl

/-! ### The end of an update (R85, R91) -/

theorem updateEvents_getLast? : (updateEvents segs pos bright).getLast? = some .settle := by
  rw [updateEvents, List.getLast?_append, transactionEvents, List.getLast?_append]
  rfl

theorem modeAfter_updateEvents (l : Line) (m : Mode) : modeAfter l m (updateEvents segs pos bright) = .input := by
  rw [updateEvents, modeAfter_append, modeAfter_transaction]

end

/-! ### A legal `SETSEG` (R92) -/

/-- A ready block takes a legal update with its events pending. -/
theorem accepted_setSegments (linesIdle : Bool) (pos : BitVec 3) (segs : List Byte) {s : State} (hr : s.ready = true) :
    Accepted s (accept (setSegmentsActions s.bright linesIdle pos segs) s) (updateEvents segs pos s.bright) ∧
      (accept (setSegmentsActions s.bright linesIdle pos segs) s).tracking = s.tracking := by
  rw [← emitted_setSegments s.bright linesIdle pos segs]
  exact accepted_of_ready hr nofun rfl

/-- A legal update run undisturbed to its end. -/
theorem run_setSegments (linesIdle : Bool) (pos : BitVec 3) (segs : List Byte) {s : State} (hr : s.ready = true)
    (hc : Calm (186 + 54 * segs.length) s) :
    ∃ d, Host.Core.run core (186 + 54 * segs.length) (accept (setSegmentsActions s.bright linesIdle pos segs) s) =
      .next { s with
        modeClk := .input
        modeDio := .input
        tracking := ⟨0#8, 8#4, BitVec.ofNat 3 segs.length, .idle, .stopped⟩
        trace := s.trace ++ updateEvents segs pos s.bright
        display := d
        script := s.script.drop (186 + 54 * segs.length)
        out := ⟨true, none, none⟩ } := by
  have hevents := emitted_setSegments s.bright linesIdle pos segs
  have hlength := emitted_setSegments_length s.bright linesIdle pos segs
  have hlast := updateEvents_getLast? s.bright pos segs
  rw [← hevents] at hlast
  rw [← hlength] at hc
  have hrun := run_to_completion hr hlast hc
  rw [hlength, hevents, trackThrough_setSegments, modeAfter_updateEvents, modeAfter_updateEvents] at hrun
  exact ⟨_, hrun⟩

/-- Settles O28: the run is cut where the pseudocode of `setSegments` is, after transaction 1, after each byte of the
payload and after transaction 2. -/
theorem setSegmentsCompletesTheUpdate : Obligations.SetSegmentsCompletesTheUpdate := by
  intro pos len f s hl hr
  obtain ⟨-, hlen, -⟩ := (rangeLegal_iff pos len).mp hl
  have hexec := exec_setseg_of_rangeLegal hl f s
  have hcount := segmentsOperand_length hlen f
  generalize segmentsOperand len f = segs at hexec hcount ⊢
  obtain ⟨haccepted, htracking⟩ := accepted_setSegments s.linesIdle pos segs hr
  refine ⟨_, hexec, haccepted, htracking, fun hc => ?_⟩
  have hbyteidx : BitVec.ofNat 3 segs.length = len := by rw [hcount, BitVec.ofNat_toNat, BitVec.setWidth_eq]
  rw [← hcount] at hc ⊢
  refine ⟨?_, fun k hk => ?_, ?_, ?_⟩
  · obtain ⟨u, hrun, hu⟩ := run_accepted_part hr (setSegmentsActions_at_transaction1 s.bright s.linesIdle pos segs)
      (emitted_upToTransaction1_length _ _ _) (calm_of_le (by omega) hc)
    rw [trackThrough_upToTransaction1] at hu
    exact ⟨u, hrun, hu⟩
  · obtain ⟨u, hrun, hu⟩ := run_accepted_part hr (setSegmentsActions_at_payload s.bright s.linesIdle pos segs k)
      (emitted_upToPayload_length _ _ _ hk) (calm_of_le (by omega) hc)
    rw [trackThrough_upToPayload _ _ _ hk, trackThrough_next_payload _ _ rfl] at hu
    exact ⟨u, hrun, hu⟩
  · obtain ⟨u, hrun, hu⟩ := run_accepted_part hr (setSegmentsActions_at_transaction2 s.bright s.linesIdle pos segs)
      (emitted_upToTransaction2_length _ _ _) (calm_of_le (by omega) hc)
    rw [trackThrough_upToTransaction2, hbyteidx] at hu
    exact ⟨u, hrun, hu⟩
  · rw [← hbyteidx]
    obtain ⟨d, hrun⟩ := run_setSegments s.linesIdle pos segs hr hc
    exact ⟨_, hrun, rfl⟩

end Sys2Proof.Proofs
end

section
/-! PROOFS. The exceptions: an operation cut by a termination or by a failing mode-set, the illegal command word, the
stopped block, and the failures of initialisation. -/

namespace Sys2Proof.Proofs

open Sys2Proof.Machine Sys2Proof.Safety

/-! ### One more step after a run -/

theorem run_succ_of_run {k : Nat} {s u t : State} (hrun : Host.Core.run core k s = .next u) (h : step u = .next t) :
    Host.Core.run core (k + 1) s = .next t := by
  induction k generalizing s with
  | zero =>
    obtain rfl := Host.Outcome.next.inj hrun
    exact run_succ_of_next h
  | succ k ih =>
    simp only [Host.Core.run] at hrun
    split at hrun
    case h_1 s' hs => exact (run_succ_of_next hs).trans (ih hrun)
    all_goals exact nomatch hrun

theorem Performed.inputs {k : Nat} {s u : State} {x : PortInputs} (h : Performed k s u) (hx : s.script[k]? = some x) :
    u.inputs = x := by
  rw [State.inputs, h.script, List.headD_eq_head?_getD, List.head?_drop, hx, Option.getD_some]

/-- The operation still runs while an event is left. -/
theorem Performed.life_busy {k : Nat} {s u : State} (h : Performed k s u) (hl : s.life = .busy)
    (hk : k < s.pend.length) : u.life = .busy := by
  have left : (s.pend.drop k).isEmpty = false := by simpa using hk
  rw [h.life, hl, left]
  exact ite_self _

/-- The next pending event, with the writes attached to it, is at the head of `PEND`. -/
theorem Performed.pend_of_getElem? {k : Nat} {s u : State} {e : Event} (h : Performed k s u)
    (he : (pendingEvents s)[k]? = some e) : ∃ ws rest, u.pend = ⟨e, ws⟩ :: rest := by
  rw [pendingEvents, List.getElem?_map, Option.map_eq_some_iff] at he
  obtain ⟨p, hp, rfl⟩ := he
  obtain ⟨hk, rfl⟩ := List.getElem?_eq_some_iff.mp hp
  exact ⟨_, _, h.pend.trans (List.drop_eq_getElem_cons hk)⟩

/-! ### A running operation is cut (R114, R118, R121) -/

/-- Settles O44: the first `k` events are performed, and the termination keeps what they left. -/
theorem terminationLeavesTheEmittedPart : Obligations.TerminationLeavesTheEmittedPart := by
  intro s k x hl hk hc hscript hr ht
  obtain ⟨u, hrun, hu⟩ := run_performs (fun _ => hl) hk.le hc
  obtain rfl := hu.inputs hscript
  refine ⟨_, run_succ_of_run hrun (step_of_termination hr ht), rfl, rfl, hu.trace, hu.fcause, fun l => ?_, rfl⟩
  rw [← hu.mode l]
  exact beginStep_mode u l

/-- Settles O45: the first `k` events are performed, and the failing mode-set writes the mode of its own line only. -/
theorem failureLeavesTheEmittedPart : Obligations.FailureLeavesTheEmittedPart := by
  intro s k x l m hl hc he hscript hr ht hf
  have hk : k < s.pend.length := by simpa [pendingEvents] using (List.getElem?_eq_some_iff.mp he).1
  obtain ⟨u, hrun, hu⟩ := run_performs (fun _ => hl) hk.le hc
  obtain rfl := hu.inputs hscript
  obtain ⟨ws, rest, hp⟩ := hu.pend_of_getElem? he
  obtain ⟨y, hy, hstep⟩ := step_fails_modeSet (hu.life_busy hl hk) ⟨hr, ht⟩ hp hf
  have trace : (u.setMode l y).trace = s.trace ++ (pendingEvents s).take k := (u.setMode_trace l y).trans hu.trace
  refine ⟨_, run_succ_of_run hrun hstep, rfl, rfl, rfl, trace, ?_, fun j hj => ?_⟩
  · rw [← hu.mode l]
    exact (u.setMode_mode_same l y).symm ▸ hy
  · rw [← hu.mode j]
    exact u.setMode_mode_other y hj

/-- Settles O39: the step of a running operation whose mode-set call fails. -/
theorem failedModeSetIsFatal : Obligations.FailedModeSetIsFatal := by
  intro s l m ws rest hl hp hrun hf
  obtain ⟨x, hx, hstep⟩ := step_fails_modeSet hl hrun hp hf
  exact ⟨_, x, hstep, hx, rfl, rfl, rfl, rfl⟩

/-! ### The illegal command word (R116) -/

/-- Settles O17: a word of no row does not decode, and a ready block answers with the rejection. -/
theorem wordOfNoRowIsRejected : Obligations.WordOfNoRowIsRejected := by
  intro s w hno hr hrun hc
  have hreject : runWord (.host w) (beginStep s) = .next (rejectIllegal (beginStep s)) := by
    simp [runWord, decode, decodeHost_of_no_row hno]
  refine ⟨?_, rfl⟩
  rw [step_of_command hrun ((ready_iff s).mp hr).1 hc, hreject, rejectIllegal, reject_ready (s := beginStep s) hr]
  rfl

/-! ### Termination and the stopped block (R118, R123, R124) -/

/-- Settles O46: the termination of the step, whatever else is on the ports. -/
theorem terminationKeepsEveryOtherRegister : Obligations.TerminationKeepsEveryOtherRegister := by
  intro s hr ht
  rw [step_of_termination hr ht]
  cases hp : s.pend <;> simp [terminate, displayAfterCut, beginStep, hp]

/-- A terminated block with nothing pending has nothing left to lose by a further termination. -/
theorem step_of_terminated_again {s : State} (hl : s.life = .terminated) (hp : s.pend = [])
    (hr : s.inputs.rstN = true) (ht : s.inputs.term = true) : step s = .next (beginStep s) := by
  rw [terminationKeepsEveryOtherRegister s hr ht, if_pos hp, ← hl, ← hp]
  rfl

/-- Settles O47: a stopped block answers to reset and termination only. -/
theorem faultedBlockTakesNoFurtherStep : Obligations.FaultedBlockTakesNoFurtherStep := by
  refine ⟨fun s hl hr => ⟨fun ht => step_of_faulted ⟨hr, ht⟩ hl, fun ht => ⟨_, step_of_termination hr ht, rfl, rfl⟩⟩,
    fun s hl hr => ?_⟩
  cases ht : s.inputs.term with
  | false =>
    have hstep := step_of_terminated ⟨hr, ht⟩ hl
    exact ⟨fun _ => hstep, _, hstep, hl, rfl, rfl, rfl, beginStep_mode s, rfl⟩
  | true =>
    exact ⟨fun h => step_of_terminated_again hl (h.resolve_left nofun) hr ht,
      _, step_of_termination hr ht, rfl, rfl, rfl, rfl, beginStep_mode s, rfl⟩

/-! ### Initialisation (R111 to R113, R120, R142) -/

/-- The configuration is one that R111 or R112 refuses. -/
abbrev Misconfigured (p : PlatformInputs) : Prop :=
  p.cfgValid = false ∨ p.cfgClkPin ∉ p.validPins ∨ p.cfgDioPin ∉ p.validPins ∨ p.cfgClkPin = p.cfgDioPin

/-- The configuration is looked at before the GPIO subsystem (R120). -/
theorem startupCheck_eq (p : PlatformInputs) :
    startupCheck p =
      if Misconfigured p then some .configError else if p.gpioAvail = false then some .gpioError else none := by
  unfold startupCheck PlatformInputs.pinValid
  by_cases hv : p.cfgValid = false <;> simp [Misconfigured, hv]

theorem step_of_startup_failure {s : State} {cause : FaultCause} (hrun : Running s) (hl : s.life = .uninit)
    (h : startupCheck s.configPorts = some cause) : step s = .next (raiseFatal cause (beginStep s)) := by
  rw [step_of_uninit hrun hl, initialise, h]

theorem step_of_startup_success {s : State} (hrun : Running s) (hl : s.life = .uninit)
    (h : startupCheck s.configPorts = none) : step s = .next (loadConfiguration s.configPorts (beginStep s)) := by
  rw [step_of_uninit hrun hl, initialise, h]

/-- Settles O50, by the outcome of the startup checks. -/
theorem initialisationLoadsOrFails : Obligations.InitialisationLoadsOrFails := by
  intro s hl hrun
  have check := startupCheck_eq s.configPorts
  refine ⟨fun good gpio => ?_, fun bad => ?_, fun good gpio => ?_⟩
  · rw [if_neg good, if_neg (by simp [gpio])] at check
    exact step_of_startup_success hrun hl check
  · rw [if_pos bad] at check
    exact ⟨_, step_of_startup_failure hrun hl check, rfl, rfl, rfl, rfl, rfl, rfl, rfl⟩
  · rw [if_neg good, if_pos gpio] at check
    exact ⟨_, step_of_startup_failure hrun hl check, rfl, rfl, rfl, rfl, rfl, rfl⟩

end Sys2Proof.Proofs
end

section
/-! PROOFS. Hardware reset, the configuration ports outside initialisation, and an update that begins out of step or with
a line driven low. -/

namespace Sys2Proof.Proofs

open Sys2Proof.Machine Sys2Proof.Safety

/-! ### Hardware reset (R140) -/

/-- Settles O48: a reset comes before everything else a step looks at, and each register of what it makes is evaluated. -/
theorem hardwareResetRestoresTheIdleState : Obligations.HardwareResetRestoresTheIdleState :=
  fun _ hr => ⟨_, step_of_reset hr, rfl, rfl, rfl, rfl, rfl, rfl, rfl, rfl, rfl⟩

/-! ### The configuration ports after initialisation (R26, R142) -/

/-- Outside `UNINIT` a step looks at the reset, termination, command and GPIO ports, and at no other input. -/
theorem step_congr_of_initialised {s s' : State} (hl : s.life ≠ .uninit) (hbegin : beginStep s' = beginStep s)
    (hr : s'.inputs.rstN = s.inputs.rstN) (ht : s'.inputs.term = s.inputs.term)
    (hc : s'.inputs.cmd = s.inputs.cmd) (hg : s'.inputs.gpioFail = s.inputs.gpioFail) : step s' = step s := by
  have hlife : s'.life = s.life := show (beginStep s').life = (beginStep s).life by rw [hbegin]
  unfold step cycle
  rw [hbegin, hr, ht, hc, hg, hlife]
  cases h : s.life with
  | uninit => exact absurd h hl
  | _ => rfl

/-- The state `s` with other standing levels of the configuration ports and the platform. -/
def withPlatform (s : State) (p : PlatformInputs) : State := { s with platform := p }

section
variable (s : State) (p : PlatformInputs)

theorem perform_withPlatform (r : Reply) : r.perform (withPlatform s p) = withPlatform (r.perform s) p := by
  cases r with
  | answered o => rfl
  | accepted acts =>
    have hready : (withPlatform s p).ready = s.ready := rfl
    rw [Reply.perform, Reply.perform]
    cases hr : s.ready with
    | false => rw [accept_not_ready hr, accept_not_ready (hready.trans hr)]; rfl
    | true => rw [accept_of_ready hr, accept_of_ready (hready.trans hr)]; rfl

theorem replyToWord_withPlatform (w : CodeWord) : replyToWord (withPlatform s p) w = replyToWord s w := by
  unfold replyToWord
  cases decode w with
  | ok i => cases i <;> rfl
  | error e => rfl

theorem runWord_withPlatform {t : State} {w : CodeWord} (h : runWord w s = .next t) :
    runWord w (withPlatform s p) = .next (withPlatform t p) := by
  rw [runWord_eq] at h ⊢
  rw [replyToWord_withPlatform, perform_withPlatform, Host.Outcome.next.inj h]

theorem finishEvent_withPlatform (e : PendingEvent) (rest : List PendingEvent) :
    finishEvent e rest (withPlatform s p) = withPlatform (finishEvent e rest s) p := by
  rw [finishEvent_eq, finishEvent_eq]
  rfl

theorem issueModeSet_withPlatform (l : Line) (m : Mode) :
    issueModeSet l m (withPlatform s p) = withPlatform (issueModeSet l m s) p := by
  cases l <;> rfl

theorem raiseGpioError_withPlatform (l : Line) (m : Mode) :
    raiseGpioError l m (withPlatform s p) = withPlatform (raiseGpioError l m s) p := by
  cases l <;> rfl

theorem performHead_withPlatform {t : State} {fail : Bool} (h : performHead fail s = .next t) :
    performHead fail (withPlatform s p) = .next (withPlatform t p) := by
  obtain ⟨⟨e, ws⟩, rest, hpend, hcase⟩ := performHead_cases h
  have hpend' : (withPlatform s p).pend = ⟨e, ws⟩ :: rest := hpend
  obtain ⟨rfl, rfl⟩ | ⟨l, m, rfl, ⟨rfl, rfl⟩ | ⟨rfl, rfl⟩⟩ := hcase
  · simp [performHead, hpend', finishEvent_withPlatform]
  · simp [performHead, hpend', issueModeSet_withPlatform, finishEvent_withPlatform]
  · simp [performHead, hpend', raiseGpioError_withPlatform]

end

/-- A step outside `UNINIT` keeps the standing levels and does the same whatever they are. -/
theorem step_withPlatform {s t : State} (p : PlatformInputs) (hne : s.life ≠ .uninit) (h : step s = .next t) :
    step (withPlatform s p) = .next (withPlatform t p) := by
  obtain ⟨hr, rfl⟩ | ⟨hr, ⟨ht, rfl⟩ | ⟨ht, hrun⟩⟩ := step_cases h
  · exact step_of_reset (s := withPlatform s p) hr
  · exact step_of_termination (s := withPlatform s p) hr ht
  · have running : Running (withPlatform s p) := ⟨hr, ht⟩
    obtain ⟨hl, -⟩ | ⟨hl, hc, rfl⟩ | ⟨hl, w, hc, hw⟩ | ⟨hl, hp⟩ | ⟨hl, rfl⟩ | ⟨hl, rfl⟩ := hrun
    · exact absurd hl hne
    · exact step_of_no_command running hl hc
    · exact (step_of_command running hl hc).trans (runWord_withPlatform (beginStep s) p hw)
    · exact (step_of_busy running hl).trans (performHead_withPlatform (beginStep s) p hp)
    · exact step_of_faulted running hl
    · exact step_of_terminated running hl

/-- Settles O51: the standing levels pass through every step but an initialisation, and the step's own configuration ports
are none of the inputs it looks at. -/
theorem laterConfigurationHasNoEffect : Obligations.LaterConfigurationHasNoEffect :=
  ⟨fun _ _ p hl h => step_withPlatform p hl h,
    fun s x rest _ hl => step_congr_of_initialised (s := { s with script := x :: rest }) hl rfl rfl rfl rfl rfl⟩

/-! ### An update that begins out of step or with a line driven low (R147, R152) -/

/-- Such an update makes no position and no addressing mode known, and brings the display into step (U3, U4, U6). -/
theorem displayThrough_setSegments_outOfStep (bright : BitVec 4) {linesIdle : Bool} (pos : BitVec 3) (segs : List Byte)
    {d : Display} (h : (d.inStep && linesIdle) = false) :
    displayThrough (writesOf (setSegmentsActions bright linesIdle pos segs)) d =
      { inStep := true, autoIncrement := false, digits := [], control := some bright } := by
  have begins : (DisplayWrite.beginUpdate pos.toNat segs.length linesIdle).apply d = .unknown := by
    simp [DisplayWrite.apply, h]
  rw [displayThrough_setSegments, begins]
  rfl

theorem linesIdle_eq_false {s : State} (h : s.modeClk = .output ∨ s.modeDio = .output) : s.linesIdle = false := by
  obtain h | h := h <;> simp [State.linesIdle, h]

/-- Settles O30: the update begins by forgetting the display, and transactions 1 and 2 then make nothing known. -/
theorem updateOutOfStepLeavesTheDigitsUnknown : Obligations.UpdateOutOfStepLeavesTheDigitsUnknown := by
  intro pos len f s hl hr hstart hc
  obtain ⟨t, u, hexec, hrun, hu⟩ := setseg_completes_display hl f hr hc
  have hforget : (s.display.inStep && s.linesIdle) = false := by
    obtain hstep | hlow := hstart
    · rw [hstep, Bool.false_and]
    · rw [linesIdle_eq_false hlow, Bool.and_false]
  rw [displayThrough_setSegments_outOfStep _ _ _ hforget] at hu
  refine ⟨t, u, hexec, hrun, ?_⟩
  rw [hu]
  exact ⟨fun _ => rfl, rfl, rfl, rfl⟩

end Sys2Proof.Proofs
end
